-- ==== Sys2Proof/Config.lean ====
section
/-! DEFINITION. The build-time parameters of PWMCORE (00_scope.md R6). The machine takes the number of channels and the
destination mask as arguments (92_eei_decisions.md D2); `numChannels` and `destMask` are the values the spec states for them,
and the host's machine is the build with these (log entry 4). -/

namespace Sys2Proof.Config

/-- `N`: the number of Compare Channels, and of complementary output pairs (R6: 4; legal range 1 to 8). -/
abbrev numChannels : Nat := 4

/-- `NEV`: the number of Event Channels (R6: 8, fixed by the mask field's width). -/
abbrev numEventChannels : Nat := 8

/-- `DEST_MASK`: bit `c` set means Event Channel `c` is routed to this Fault Monitor (R6: 0xFF). -/
def destMask : BitVec 8 := 0xFF#8

/-- One build of PWMCORE: a choice of its two open parameters. A build with a number of channels out of range does not exist
(R6; 93_implementation_defined.md U3). -/
structure Build where
  /-- `N`. -/
  numChannels : Nat
  /-- `DEST_MASK`. -/
  destMask : BitVec 8
  legal : 1 ≤ numChannels ∧ numChannels ≤ 8
deriving DecidableEq, Repr

/-- The build with the stated values. -/
def defaultBuild : Build where
  numChannels := numChannels
  destMask := destMask
  legal := by decide

end Sys2Proof.Config
end

