-- ==== Sys2Proof/Word.lean ====
section
/-! DEFINITION. The word types of PWMCORE: what the spec treats as bits (00_scope.md R6, R9). Every field is unsigned. -/

namespace Sys2Proof

/-- A command word or a response word: 32 bits, bit 0 the least significant (R41, R50, R53). -/
abbrev Word := BitVec 32

/-- One byte of a command word written down as bytes (R41). -/
abbrev Byte := BitVec 8

/-- A tick count of width `W` = 16: `cnt`, `period`, `max_duty`, `active[i]`, `pending[i]`; also the `DATA`
field of a response (R6, R53). -/
abbrev Ticks := BitVec 16

/-- A dead-time tick count of width `DTW` = 8 (R6). -/
abbrev DeadTicks := BitVec 8

/-- A clock divisor or prescaler value of width `DIVW` = 10 (R6). -/
abbrev Divisor := BitVec 10

/-- The 4-bit `IDX` field of a command: a channel, pair or Event Channel number (R52). -/
abbrev Index := BitVec 4

end Sys2Proof
end

