-- ==== Sys2Proof/Syntax.lean ====
section
/-! DEFINITION. The thirteen commands of `PWMCORE-CMD 1` (30_encoding.md R54) and the names their one-bit operands stand
for (R52, 00_scope.md R9). -/

namespace Sys2Proof

/-- Counting direction; in dual-slope mode the direction of the first slope (R15, R82). -/
inductive Direction where
  | down
  | up
deriving DecidableEq, Repr

/-- `waveform_mode` (R15). -/
inductive SlopeMode where
  | single
  | dual
deriving DecidableEq, Repr

/-- `restart_mode` of the Fault Monitor: latched (explicit clear), or cycle-by-cycle (re-armed at a boundary) (R21). -/
inductive RestartMode where
  | latched
  | cycleByCycle
deriving DecidableEq, Repr

/-- A pin level, and the `safe_level` the pins are forced to (R21, R130). -/
inductive Level where
  | low
  | high
deriving DecidableEq, Repr

/-- The state of the Fault Monitor (R21). -/
inductive FaultState where
  | armed
  | faulted
deriving DecidableEq, Repr

/-- Which of a channel's two values `RDDUTY` reads (R52, R91). -/
inductive DutySel where
  | active
  | pending
deriving DecidableEq, Repr

/-- A command, one constructor per row of spec/opcode_table.json (R54), with the operands of its format (R51). -/
inductive Instr where
  /-- Configure the carrier (R70). -/
  | cfgcar (period : Ticks) (dir : Direction) (mode : SlopeMode) (div : Divisor)
  /-- Set the maximum duty cycle (R71). -/
  | cfgmax (value : Ticks)
  /-- Configure the dead times of one pair (R105). -/
  | cfgdt (idx : Index) (low high : DeadTicks)
  /-- Configure the Fault Monitor (R120). -/
  | cfgflt (restart : RestartMode) (safe : Level) (mask : BitVec 8)
  /-- Begin autonomous operation (R72). -/
  | start
  /-- End autonomous operation (R73). -/
  | stop
  /-- Write a channel's pending duty value (R90). -/
  | wrduty (idx : Index) (value : Ticks)
  /-- Read a channel's active or pending duty value (R91). -/
  | rdduty (idx : Index) (sel : DutySel)
  /-- Software-triggered fault stimulus on an Event Channel (R123). -/
  | fire (idx : Index)
  /-- The explicit clear of the Fault Monitor (R124). -/
  | clrflt
  /-- Read the Fault Monitor state (R125). -/
  | status
  /-- Read the flag and status word (R140). -/
  | rdflags
  /-- Acknowledge event flags, write-one-to-clear (R141). -/
  | ack (mask : BitVec 10)
deriving DecidableEq, Repr

end Sys2Proof
end

