-- ==== Sys2Proof/WellFormed.lean ====
section
/-! DEFINITION. Which commands are well formed: the index ranges of 30_encoding.md R55 step 3. Every other operand is legal
at every value of its field (R56). -/

namespace Sys2Proof

/-- A channel or pair number names one of `n` channels (R55 step 3). -/
def channelInRange (n : Nat) (idx : Index) : Bool := decide (idx.toNat < n)

/-- An Event Channel number names one of the eight (R55 step 3). -/
def eventInRange (idx : Index) : Bool := decide (idx.toNat < Config.numEventChannels)

/-- Well-formedness in an instance with `n` channels (R55 step 3, R56). -/
def Instr.wfFor (n : Nat) : Instr → Bool
  | .cfgcar _ _ _ _ => true
  | .cfgmax _ => true
  | .cfgdt idx _ _ => channelInRange n idx
  | .cfgflt _ _ _ => true
  | .start => true
  | .stop => true
  | .wrduty idx _ => channelInRange n idx
  | .rdduty idx _ => channelInRange n idx
  | .fire idx => eventInRange idx
  | .clrflt => true
  | .status => true
  | .rdflags => true
  | .ack _ => true

/-- Well-formedness in this instance (`N` = 4). -/
def Instr.wf (i : Instr) : Bool := i.wfFor Config.numChannels

end Sys2Proof
end

