-- ==== Sys2Proof/Decode.lean ====
section
/-! DEFINITION. Decoding a command word in the order of 30_encoding.md R55, steps 1 to 3, the encoder from the same formats
(R51), and the byte form of a word (20_memory.md R41). -/

namespace Sys2Proof

/-! ## Fields of a word -/

/-- The field of `width` bits whose lowest bit is bit `lo` (`w[lo+width-1 : lo]` of R9). -/
def field (lo width : Nat) (w : Word) : BitVec width := w.extractLsb' lo width

/-- The word that holds `v` from bit `lo` up and zeros elsewhere. -/
def place {width : Nat} (lo : Nat) (v : BitVec width) : Word := v.setWidth 32 <<< lo

/-! ## One-bit operands (R52) -/

def dirBit : Direction → BitVec 1
  | .down => 0
  | .up => 1

def dirOfBit (b : BitVec 1) : Direction := if b = 1 then .up else .down

def modeBit : SlopeMode → BitVec 1
  | .single => 0
  | .dual => 1

def modeOfBit (b : BitVec 1) : SlopeMode := if b = 1 then .dual else .single

def restartBit : RestartMode → BitVec 1
  | .latched => 0
  | .cycleByCycle => 1

def restartOfBit (b : BitVec 1) : RestartMode := if b = 1 then .cycleByCycle else .latched

def levelBit : Level → BitVec 1
  | .low => 0
  | .high => 1

def levelOfBit (b : BitVec 1) : Level := if b = 1 then .high else .low

def selBit : DutySel → BitVec 1
  | .active => 0
  | .pending => 1

def selOfBit (b : BitVec 1) : DutySel := if b = 1 then .pending else .active

/-! ## Decoding -/

/-- Why a word is no command (R56); each is answered with IllegalCommand (R152). -/
inductive DecodeError where
  /-- `OP` is 0, 14 or 15 (R55 step 1). Safe: no state changes. -/
  | unassignedOpcode (op : BitVec 4)
  /-- A reserved bit of the opcode's format is 1 (R55 step 2). Safe: no state changes. -/
  | reservedBits (op : BitVec 4)
  /-- The index names no channel, pair or Event Channel (R55 step 3). Safe: no state changes. -/
  | indexOutOfRange (idx : Index)
  /-- Fewer than four bytes stand where a word is read (R43: whole words only). Safe: it never reaches the port. -/
  | truncated
deriving DecidableEq, Repr

/-- `OP = w[31:28]` (R50). -/
def opcode (w : Word) : BitVec 4 := field 28 4 w

/-- Step 2 of R55: the command, or a refusal when the reserved bits are not all 0. -/
def checkReserved (w : Word) (clear : Bool) (i : Instr) : Except DecodeError Instr :=
  if clear then .ok i else .error (.reservedBits (opcode w))

/-- Steps 2 and 3 of R55 for a command with an index: first the reserved bits, then the range. -/
def checkIndexed (w : Word) (clear inRange : Bool) (i : Instr) : Except DecodeError Instr :=
  if clear then
    if inRange then .ok i else .error (.indexOutOfRange (field 24 4 w))
  else .error (.reservedBits (opcode w))

/-- Format `CAR`: DIR 27, MODE 26, DIV 25:16, PERIOD 15:0; no reserved bit (R51). -/
def decodeCfgcar (w : Word) : Except DecodeError Instr :=
  .ok (.cfgcar (field 0 16 w) (dirOfBit (field 27 1 w)) (modeOfBit (field 26 1 w)) (field 16 10 w))

/-- Format `VAL`: VALUE 15:0; reserved 27:16 (R51). -/
def decodeCfgmax (w : Word) : Except DecodeError Instr :=
  checkReserved w (decide (field 16 12 w = 0)) (.cfgmax (field 0 16 w))

/-- Format `DT`: IDX 27:24, LOW 15:8, HIGH 7:0; reserved 23:16 (R51). -/
def decodeCfgdt (n : Nat) (w : Word) : Except DecodeError Instr :=
  checkIndexed w (decide (field 16 8 w = 0)) (channelInRange n (field 24 4 w))
    (.cfgdt (field 24 4 w) (field 8 8 w) (field 0 8 w))

/-- Format `FLT`: RESTART 27, SAFE 26, MASK 7:0; reserved 25:8 (R51). -/
def decodeCfgflt (w : Word) : Except DecodeError Instr :=
  checkReserved w (decide (field 8 18 w = 0))
    (.cfgflt (restartOfBit (field 27 1 w)) (levelOfBit (field 26 1 w)) (field 0 8 w))

/-- Format `NONE`: reserved 27:0 (R51). -/
def decodeNone (w : Word) (i : Instr) : Except DecodeError Instr :=
  checkReserved w (decide (field 0 28 w = 0)) i

/-- Format `IDXVAL`: IDX 27:24, VALUE 15:0; reserved 23:16 (R51). -/
def decodeWrduty (n : Nat) (w : Word) : Except DecodeError Instr :=
  checkIndexed w (decide (field 16 8 w = 0)) (channelInRange n (field 24 4 w))
    (.wrduty (field 24 4 w) (field 0 16 w))

/-- Format `IDXSEL`: IDX 27:24, SEL 16; reserved 23:17 and 15:0 (R51). -/
def decodeRdduty (n : Nat) (w : Word) : Except DecodeError Instr :=
  checkIndexed w (decide (field 17 7 w = 0) && decide (field 0 16 w = 0)) (channelInRange n (field 24 4 w))
    (.rdduty (field 24 4 w) (selOfBit (field 16 1 w)))

/-- Format `IDX`: IDX 27:24; reserved 23:0 (R51). -/
def decodeFire (w : Word) : Except DecodeError Instr :=
  checkIndexed w (decide (field 0 24 w = 0)) (eventInRange (field 24 4 w)) (.fire (field 24 4 w))

/-- Format `MSK`: M 9:0; reserved 27:10 (R51). -/
def decodeAck (w : Word) : Except DecodeError Instr :=
  checkReserved w (decide (field 10 18 w = 0)) (.ack (field 0 10 w))

/-- Decoding in an instance with `n` channels: R55 steps 1 to 3, the opcode numbers of R54. Total: every word is one of the
thirteen commands or refused by name. -/
def decodeFor (n : Nat) (w : Word) : Except DecodeError Instr :=
  if opcode w = 0x1 then decodeCfgcar w
  else if opcode w = 0x2 then decodeCfgmax w
  else if opcode w = 0x3 then decodeCfgdt n w
  else if opcode w = 0x4 then decodeCfgflt w
  else if opcode w = 0x5 then decodeNone w .start
  else if opcode w = 0x6 then decodeNone w .stop
  else if opcode w = 0x7 then decodeWrduty n w
  else if opcode w = 0x8 then decodeRdduty n w
  else if opcode w = 0x9 then decodeFire w
  else if opcode w = 0xA then decodeNone w .clrflt
  else if opcode w = 0xB then decodeNone w .status
  else if opcode w = 0xC then decodeNone w .rdflags
  else if opcode w = 0xD then decodeAck w
  else .error (.unassignedOpcode (opcode w))

/-- Decoding in this instance (`N` = 4). -/
def decode (w : Word) : Except DecodeError Instr := decodeFor Config.numChannels w

/-! ## Encoding -/

/-- The opcode number of a command (R54). -/
def opcodeOf : Instr → BitVec 4
  | .cfgcar _ _ _ _ => 0x1
  | .cfgmax _ => 0x2
  | .cfgdt _ _ _ => 0x3
  | .cfgflt _ _ _ => 0x4
  | .start => 0x5
  | .stop => 0x6
  | .wrduty _ _ => 0x7
  | .rdduty _ _ => 0x8
  | .fire _ => 0x9
  | .clrflt => 0xA
  | .status => 0xB
  | .rdflags => 0xC
  | .ack _ => 0xD

/-- Bits 27:0 of a command's word, its operands at their places (R51). -/
def payloadOf : Instr → Word
  | .cfgcar period dir mode div => place 27 (dirBit dir) ||| place 26 (modeBit mode) ||| place 16 div ||| place 0 period
  | .cfgmax value => place 0 value
  | .cfgdt idx low high => place 24 idx ||| place 8 low ||| place 0 high
  | .cfgflt restart safe mask => place 27 (restartBit restart) ||| place 26 (levelBit safe) ||| place 0 mask
  | .start => 0
  | .stop => 0
  | .wrduty idx value => place 24 idx ||| place 0 value
  | .rdduty idx sel => place 24 idx ||| place 16 (selBit sel)
  | .fire idx => place 24 idx
  | .clrflt => 0
  | .status => 0
  | .rdflags => 0
  | .ack mask => place 0 mask

/-- The word of a command (R50, R51): the opcode in bits 31:28 and the payload below it. -/
def encode (i : Instr) : Word := place 28 (opcodeOf i) ||| payloadOf i

/-! ## The opcode map of R54 -/

/-- `match` of R54: the word's value under the mask. -/
def tableMatch : Instr → Word
  | .cfgcar _ _ _ _ => 0x10000000
  | .cfgmax _ => 0x20000000
  | .cfgdt _ _ _ => 0x30000000
  | .cfgflt _ _ _ => 0x40000000
  | .start => 0x50000000
  | .stop => 0x60000000
  | .wrduty _ _ => 0x70000000
  | .rdduty _ _ => 0x80000000
  | .fire _ => 0x90000000
  | .clrflt => 0xA0000000
  | .status => 0xB0000000
  | .rdflags => 0xC0000000
  | .ack _ => 0xD0000000

/-- `mask` of R54: the opcode and every reserved bit. -/
def tableMask : Instr → Word
  | .cfgcar _ _ _ _ => 0xF0000000
  | .cfgmax _ => 0xFFFF0000
  | .cfgdt _ _ _ => 0xF0FF0000
  | .cfgflt _ _ _ => 0xF3FFFF00
  | .start => 0xFFFFFFFF
  | .stop => 0xFFFFFFFF
  | .wrduty _ _ => 0xF0FF0000
  | .rdduty _ _ => 0xF0FEFFFF
  | .fire _ => 0xF0FFFFFF
  | .clrflt => 0xFFFFFFFF
  | .status => 0xFFFFFFFF
  | .rdflags => 0xFFFFFFFF
  | .ack _ => 0xFFFFFC00

/-! ## Words as bytes -/

/-- The four bytes of a word, the byte of bits 7:0 first (R41). -/
def bytesOfWord (w : Word) : List Byte := [field 0 8 w, field 8 8 w, field 16 8 w, field 24 8 w]

/-- The word four bytes stand for, the first one bits 7:0 (R41). -/
def wordOfBytes (b0 b1 b2 b3 : Byte) : Word := place 0 b0 ||| place 8 b1 ||| place 16 b2 ||| place 24 b3

/-- Decode one command at the front of a list of bytes and give the bytes after it. Fewer than four bytes are refused: the
port takes whole words only (R43). -/
def decodeBytes : List Byte → Except DecodeError (Instr × List Byte)
  | b0 :: b1 :: b2 :: b3 :: rest =>
    match decode (wordOfBytes b0 b1 b2 b3) with
    | .ok i => .ok (i, rest)
    | .error e => .error e
  | _ => .error .truncated

/-- The command word whose lowest `nbits` bits are those of `w` and whose other bits are 0. -/
def tableWord (nbits w : Nat) : Word := BitVec.ofNat 32 (w % 2 ^ nbits)

/-- The instruction the decoder reads from an opcode-table row's word: laid out as bytes (R41), then decoded. -/
def decodeTableWord (nbits w : Nat) : Option Instr :=
  match decodeBytes (bytesOfWord (tableWord nbits w)) with
  | .ok (i, _) => some i
  | .error _ => none

end Sys2Proof
end

