-- ==== Sys2Proof/Machine/State.lean ====
section
/-! DEFINITION. The state of PWMCORE as plain data: the record of 10_state.md R10, the stimuli the agents' steps are made of
(00_scope.md R7), the machine's state, its reset value (70_reset_and_hazards.md R170) and the reasons a step can stop. -/

namespace Sys2Proof.Machine

/-- The whole hardware state of an instance with `n` channels (R10: "Nothing else is state"). -/
structure Pwm (n : Nat) where
  /-- The counter's extreme value (R15). -/
  period : Ticks
  /-- Direction of the (first) slope (R15). -/
  direction : Direction
  /-- Single-slope or dual-slope (R15). -/
  mode : SlopeMode
  /-- Clock divisor (R15). -/
  div : Divisor
  /-- Set between a successful `START` and the next `STOP` or `RESET` (R16). -/
  enabled : Bool
  /-- The counter value (R16). -/
  cnt : Ticks
  /-- Set while the counter runs back in a dual-slope cycle (R16). -/
  phase : Bool
  /-- Input-clock cycles since the last tick (R16). -/
  presc : Divisor
  /-- The maximum duty cycle, one for all channels (R17). -/
  maxDuty : Ticks
  /-- The duty values compared with the counter (R18). -/
  active : Vector Ticks n
  /-- The buffered duty values software writes (R18). -/
  pending : Vector Ticks n
  /-- The registered comparison results (R18, R92). -/
  raw : Vector Bool n
  /-- Dead ticks before the low side turns on (R20). -/
  dtLow : Vector DeadTicks n
  /-- Dead ticks before the high side turns on (R20). -/
  dtHigh : Vector DeadTicks n
  /-- Dead ticks still to run (R20). -/
  dtCnt : Vector DeadTicks n
  /-- Armed or Faulted (R21). -/
  fstate : FaultState
  /-- The override is on (R22). -/
  force : Bool
  /-- Latched or cycle-by-cycle (R21). -/
  restart : RestartMode
  /-- The level forced pins are driven to (R21). -/
  safe : Level
  /-- Bit `c` set: Event Channel `c` is a fault source (R21). -/
  evmask : BitVec 8
  /-- `match[i]`: sticky compare-match flags (R19). -/
  matchFlag : Vector Bool n
  /-- Sticky period-boundary flag (R19). -/
  ovf : Bool
  /-- Sticky fault-latched flag (R19). -/
  faultif : Bool
  /-- Sticky configuration-error flag (R19). -/
  cfgerr : Bool
deriving DecidableEq, Repr

/-- The reset values (last column of R10; R28, R170). -/
def Pwm.reset (n : Nat) : Pwm n where
  period := 0xFFFF
  direction := .down
  mode := .single
  div := 1
  enabled := false
  cnt := 0xFFFF
  phase := false
  presc := 0
  maxDuty := 0
  active := Vector.replicate n 0
  pending := Vector.replicate n 0
  raw := Vector.replicate n false
  dtLow := Vector.replicate n 0
  dtHigh := Vector.replicate n 0
  dtCnt := Vector.replicate n 0
  fstate := .armed
  force := false
  restart := .latched
  safe := .low
  evmask := 0
  matchFlag := Vector.replicate n false
  ovf := false
  faultif := false
  cfgerr := false

/-- One step of one of the four agents (R7). -/
inductive Stimulus where
  /-- HOST: one command word at the command port (R40). -/
  | cmd (w : Word)
  /-- CLOCK: one input-clock cycle (R80). -/
  | clk
  /-- EVENT: a pulse on event input `ev_in[c]` (R127). -/
  | event (c : Fin Config.numEventChannels)
  /-- RESET: a pulse on the `reset` input (R170). -/
  | reset
deriving DecidableEq, Repr

/-- The state of the model of an instance with `n` channels: the hardware's fields (45 for the stated `N` = 4), and two
fields of the model's own for the wires around it. `N` itself is no field of it (R27): it is the argument, and `State` written
alone is the instance with the stated value. -/
structure State (n : Nat := Config.numChannels) where
  /-- The hardware state (R10). -/
  pwm : Pwm n
  /-- DESIGN CHOICE (log entry 1), the model's own: what the agents do next, oldest first; one step takes one stimulus. Every
  interleaving of the four agents (R7, R46) is some such list. -/
  inputs : List Stimulus
  /-- DESIGN CHOICE (log entry 3), the model's own: the response word (R53) of the step just taken; `none` when it was no
  `CMD` step. -/
  response : Option Word
deriving DecidableEq, Repr

/-- The reasons a step can stop with a fault. There is none: every step of every agent has one defined result (R183), the two
exceptions are answered in the response word (R150) and no `CLK`, `EVENT` or `RESET` step raises anything (log entry 6). -/
inductive Fault where
deriving DecidableEq, Repr

/-- The reasons a step can be refused. -/
inductive Refusal where
  /-- Raised by an arm of `exec` whose instruction has no meaning yet; no arm does so. Safe: the model stops where the
  hardware goes on. -/
  | notModelled (mnemonic : String)
deriving DecidableEq, Repr

/-- What a step of an instance with `n` channels ends in. -/
abbrev Result (n : Nat) := Host.Outcome (State n) Fault Refusal

/-- The machine after reset, in an instance with `n` channels: every hardware field as R170 states it, no stimulus waiting and
no response given (log entries 1 and 3). -/
def State.resetFor (n : Nat) : State n where
  pwm := Pwm.reset n
  inputs := []
  response := none

/-- The machine after reset. -/
def State.reset : State := State.resetFor Config.numChannels

/-! ## Updates of the whole state -/

/-- The hardware state becomes `c` and the step's response is `r`. -/
def State.answer {n : Nat} (c : Pwm n) (r : Option Word) (s : State n) : State n := { s with pwm := c, response := r }

/-- The stimuli still waiting become `xs`. -/
def State.withInputs {n : Nat} (xs : List Stimulus) (s : State n) : State n := { s with inputs := xs }

end Sys2Proof.Machine
end

