-- ==== Sys2Proof/Machine/Ops.lean ====
section
/-! DEFINITION. The operations every command shares: the response word (30_encoding.md R53), answering a command, raising the
two exceptions (60_exceptions.md R150 to R152), the return from one (there is nothing to restore: the next command simply
runs, R150), and the operations over the per-channel registers. There is no memory (20_memory.md R40). -/

namespace Sys2Proof.Machine

/-! ## The response word (R53) -/

/-- The response of a command that raised nothing: `ERR` = 0, `CODE` = 0, `DATA` in bits 15:0. -/
def okWord (data : Ticks) : Word := data.setWidth 32

/-- The two exceptions (R150). -/
inductive CmdException where
  /-- A command carrying a value or issued at a time the configuration rules forbid (R151). -/
  | configurationError
  /-- A word, or an index, that is no command (R152). -/
  | illegalCommand
deriving DecidableEq, Repr

/-- `CODE`, bits 30:28 of the response (R53, R150). -/
def exceptionCode : CmdException → BitVec 3
  | .configurationError => 1
  | .illegalCommand => 2

/-- The response of a command that raised: `ERR` = 1 in bit 31, `CODE`, and `DATA` = 0 (R53). -/
def errorWord (e : CmdException) : Word := place 31 (1 : BitVec 1) ||| place 28 (exceptionCode e)

/-- `r[31]` of a response word (R53). -/
def responseErr (r : Word) : Bool := r.getLsbD 31

/-- `r[30:28]` of a response word (R53). -/
def responseCode (r : Word) : BitVec 3 := field 28 3 r

/-- `r[15:0]` of a response word (R53). -/
def responseData (r : Word) : Ticks := field 0 16 r

/-! ## Answering a command -/

/-- `respond(d)` (R9) after the hardware state became `c`. -/
def respond {n : Nat} (data : Ticks) (c : Pwm n) (s : State n) : Result n :=
  .next (s.answer c (some (okWord data)))

/-- The only hardware write of an exception: `cfgerr <- 1` for ConfigurationError, nothing for IllegalCommand (R150). -/
def exceptionWrites {n : Nat} (e : CmdException) (c : Pwm n) : Pwm n :=
  match e with
  | .configurationError => { c with cfgerr := true }
  | .illegalCommand => c

/-- `raise e` (R9, R150): the command ends with no other effect and the response reports the exception. -/
def raiseException {n : Nat} (e : CmdException) (s : State n) : Result n :=
  .next (s.answer (exceptionWrites e s.pwm) (some (errorWord e)))

/-- `raise ConfigurationError` (R151). -/
def raiseConfigurationError {n : Nat} (s : State n) : Result n := raiseException .configurationError s

/-- `raise IllegalCommand` (R152). -/
def raiseIllegalCommand {n : Nat} (s : State n) : Result n := raiseException .illegalCommand s

/-! ## Per-channel registers -/

/-- A condition holds of some channel. -/
def anyChannel {n : Nat} (cond : Fin n → Bool) : Bool := (List.finRange n).any cond

/-- `dead_time_total` of pair `p`: the sum of both dead times, a natural number of at most 510 (R106). -/
def deadTimeTotal {n : Nat} (c : Pwm n) (p : Fin n) : Nat := (c.dtLow[p]).toNat + (c.dtHigh[p]).toNat

/-- `pending[i] <- v` (R90). -/
def writePending {n : Nat} (i : Fin n) (v : Ticks) (c : Pwm n) : Pwm n := { c with pending := c.pending.set i v }

/-- `dt_low[p] <- low ; dt_high[p] <- high` (R105). -/
def writeDeadTimes {n : Nat} (p : Fin n) (low high : DeadTicks) (c : Pwm n) : Pwm n :=
  { c with dtLow := c.dtLow.set p low, dtHigh := c.dtHigh.set p high }

end Sys2Proof.Machine
end

