-- ==== Sys2Proof/Machine/Operands.lean ====
section
/-! DEFINITION. The operand forms of the command set: the only addressing mode is the direct index in the command word
(30_encoding.md R62); every other operand is an immediate field (R52). -/

namespace Sys2Proof.Machine

/-- The channel or pair an `IDX` operand names, if the instance has it (R55 step 3). -/
def channelOf (n : Nat) (idx : Index) : Option (Fin n) :=
  if h : idx.toNat < n then some ⟨idx.toNat, h⟩ else none

/-- The Event Channel an `IDX` operand names, if it is one of the eight (R55 step 3, R123). -/
def eventChannelOf (idx : Index) : Option (Fin Config.numEventChannels) :=
  if h : idx.toNat < Config.numEventChannels then some ⟨idx.toNat, h⟩ else none

/-- The `IDX` field that names channel `i`. -/
def indexOf {n : Nat} (i : Fin n) : Index := BitVec.ofNat 4 i.val

/-- The data register `RDDUTY` reads (R91). -/
def readDuty {n : Nat} (sel : DutySel) (i : Fin n) (c : Pwm n) : Ticks :=
  match sel with
  | .active => c.active[i]
  | .pending => c.pending[i]

/-- `fstate` as the value `STATUS` answers: 0 Armed, 1 Faulted (R125). -/
def faultStateBit : FaultState → BitVec 1
  | .armed => 0
  | .faulted => 1

end Sys2Proof.Machine
end

