-- ==== Sys2Proof/Machine/Flags.lean ====
section
/-! DEFINITION. The event flags: the flag and status word (44_flags.md R140) and write-one-to-clear (R141). -/

namespace Sys2Proof.Machine

/-- `match[i]` as a bit of the flag word; bits of channels that do not exist read 0 (R140). -/
def matchBit {n : Nat} (c : Pwm n) (i : Nat) : BitVec 1 :=
  if h : i < n then BitVec.ofBool c.matchFlag[i] else 0

/-- `match[7] ++ ... ++ match[0]` (R140). -/
def matchByte {n : Nat} (c : Pwm n) : BitVec 8 :=
  matchBit c 7 ++ matchBit c 6 ++ matchBit c 5 ++ matchBit c 4 ++ matchBit c 3 ++ matchBit c 2 ++ matchBit c 1 ++ matchBit c 0

/-- The word `RDFLAGS` reads, bits 15 down to 0: two reserved zeros, `fstate`, `enabled`, `force`, `cfgerr`, `faultif`, `ovf`,
and the match flags (R140). -/
def flagWord {n : Nat} (c : Pwm n) : Ticks :=
  (0 : BitVec 2) ++ faultStateBit c.fstate ++ BitVec.ofBool c.enabled ++ BitVec.ofBool c.force ++ BitVec.ofBool c.cfgerr
    ++ BitVec.ofBool c.faultif ++ BitVec.ofBool c.ovf ++ matchByte c

/-- `ACK m` on the flags: each flag whose mask bit is 1 is cleared; the others keep their value, and mask bits of absent
channels do nothing (R141). -/
def acknowledge {n : Nat} (m : BitVec 10) (c : Pwm n) : Pwm n :=
  { c with
    matchFlag := Vector.ofFn fun i => c.matchFlag[i] && !m.getLsbD i.val
    ovf := c.ovf && !m.getLsbD 8
    faultif := c.faultif && !m.getLsbD 9 }

/-- `ovf <- 1` (R85). -/
def setOvf {n : Nat} (c : Pwm n) : Pwm n := { c with ovf := true }

/-- `match[i] <- 1` for every channel of which `hit` holds (R94); the flags are sticky (R19). -/
def setMatches {n : Nat} (hit : Fin n → Bool) (c : Pwm n) : Pwm n :=
  { c with matchFlag := Vector.ofFn fun i => c.matchFlag[i] || hit i }

end Sys2Proof.Machine
end

