-- ==== Sys2Proof/Machine/FaultMonitor.lean ====
section
/-! DEFINITION. The Fault Monitor and the Event Channels (43_fault.md): delivery of an event, the boundary's part, and the
commands CFGFLT, FIRE, CLRFLT, STATUS. -/

namespace Sys2Proof.Machine

/-- A fire of Event Channel `ch` is a masked event: `DEST_MASK[ch] = 1` and `evmask[ch] = 1` (R121, glossary). -/
def maskedEvent {n : Nat} (dest : BitVec 8) (ch : Nat) (c : Pwm n) : Bool := dest.getLsbD ch && c.evmask.getLsbD ch

/-- `Trigger(ch)` (R126): a masked event while Armed latches the fault, turns the override on and sets `faultif`, all in one
step; any other event is dropped. `dest` is the build-time `DEST_MASK`. -/
def trigger {n : Nat} (dest : BitVec 8) (ch : Nat) (c : Pwm n) : Pwm n :=
  if maskedEvent dest ch c = true ∧ c.fstate = .armed then
    { c with fstate := .faulted, force := true, faultif := true }
  else c

/-- First line of `BoundaryFault()` (R128): the cycle-by-cycle re-arm. -/
def rearm {n : Nat} (c : Pwm n) : Pwm n :=
  if c.fstate = .faulted ∧ c.restart = .cycleByCycle then { c with fstate := .armed } else c

/-- Second line of `BoundaryFault()` (R128): the override is released when the monitor is Armed. -/
def release {n : Nat} (c : Pwm n) : Pwm n :=
  if c.fstate = .armed then { c with force := false } else c

/-- `BoundaryFault()` (R128): the re-arm, then the release, which sees the `fstate` just written. -/
def boundaryFault {n : Nat} (c : Pwm n) : Pwm n := release (rearm c)

/-- `CFGFLT restart, safe, mask` (R120). -/
def execCfgflt {n : Nat} (restart : RestartMode) (safe : Level) (mask : BitVec 8) (s : State n) : Result n :=
  if s.pwm.enabled then raiseConfigurationError s
  else respond 0 { s.pwm with restart := restart, safe := safe, evmask := mask } s

/-- `FIRE evch` (R123) in a build with the destination mask `dest`. -/
def fireFor {n : Nat} (dest : BitVec 8) (idx : Index) (s : State n) : Result n :=
  match eventChannelOf idx with
  | none => raiseIllegalCommand s
  | some ch => respond 0 (trigger dest ch.val s.pwm) s

/-- `FIRE evch` (R123). -/
def execFire {n : Nat} (idx : Index) (s : State n) : Result n := fireFor Config.destMask idx s

/-- `CLRFLT` (R124): `fstate <- ARMED`; neither `force` nor `faultif` is cleared. -/
def execClrflt {n : Nat} (s : State n) : Result n :=
  respond 0 { s.pwm with fstate := .armed } s

/-- `STATUS` (R125). -/
def execStatus {n : Nat} (s : State n) : Result n :=
  respond ((faultStateBit s.pwm.fstate).setWidth 16) s.pwm s

end Sys2Proof.Machine
end

