-- ==== Sys2Proof/Machine/Carrier.lean ====
section
/-! DEFINITION. The Carrier Counter (40_carrier.md): the commands CFGCAR, CFGMAX, START, STOP and the counter sequence. -/

namespace Sys2Proof.Machine

/-- The counter's start value `S`: `period` counting down, 0 counting up (R82). -/
def startValue (dir : Direction) (period : Ticks) : Ticks :=
  match dir with
  | .down => period
  | .up => 0

/-- The checks of `CFGCAR` that raise ConfigurationError (R70; R151 causes 1 to 5). -/
def cfgcarRejected {n : Nat} (period : Ticks) (div : Divisor) (c : Pwm n) : Bool :=
  c.enabled || decide (period = 0) || decide (div = 0) || decide (period ≤ c.maxDuty)
    || anyChannel fun p => decide (period.toNat ≤ deadTimeTotal c p)

/-- The writes of `CFGCAR` (R70): the configuration, the counter at its start value, and `raw` and `dt_cnt` reloaded. -/
def loadCarrier {n : Nat} (period : Ticks) (dir : Direction) (mode : SlopeMode) (div : Divisor) (c : Pwm n) : Pwm n :=
  { c with
    period := period, direction := dir, mode := mode, div := div
    cnt := startValue dir period, phase := false, presc := 0
    raw := Vector.ofFn fun i => decide (startValue dir period < c.active[i])
    dtCnt := Vector.replicate n 0 }

/-- The checks of `CFGMAX` that raise ConfigurationError (R71; R151 causes 1, 6, 7). -/
def cfgmaxRejected {n : Nat} (value : Ticks) (c : Pwm n) : Bool :=
  c.enabled || decide (c.period ≤ value)
    || anyChannel fun i => decide (value < c.active[i]) || decide (value < c.pending[i])

/-- `CFGCAR period, dir, mode, div` (R70). -/
def execCfgcar {n : Nat} (period : Ticks) (dir : Direction) (mode : SlopeMode) (div : Divisor) (s : State n) : Result n :=
  if cfgcarRejected period div s.pwm then raiseConfigurationError s
  else respond 0 (loadCarrier period dir mode div s.pwm) s

/-- `CFGMAX value` (R71). -/
def execCfgmax {n : Nat} (value : Ticks) (s : State n) : Result n :=
  if cfgmaxRejected value s.pwm then raiseConfigurationError s
  else respond 0 { s.pwm with maxDuty := value } s

/-- `START` (R72): refused while `cfgerr` is set. -/
def execStart {n : Nat} (s : State n) : Result n :=
  if s.pwm.cfgerr then raiseConfigurationError s
  else respond 0 { s.pwm with enabled := true } s

/-- `STOP` (R73): everything but `enabled` is frozen as it is. -/
def execStop {n : Nat} (s : State n) : Result n :=
  respond 0 { s.pwm with enabled := false } s

/-- `Advance()` in single-slope mode, counting down (R82). -/
def advanceSingleDown {n : Nat} (c : Pwm n) : Pwm n × Bool :=
  if c.cnt = 0 then ({ c with cnt := c.period }, true) else ({ c with cnt := c.cnt - 1 }, false)

/-- `Advance()` in single-slope mode, counting up (R82). -/
def advanceSingleUp {n : Nat} (c : Pwm n) : Pwm n × Bool :=
  if c.cnt = c.period then ({ c with cnt := 0 }, true) else ({ c with cnt := c.cnt + 1 }, false)

/-- `Advance()` in dual-slope mode, down first: the second slope runs up from 0 to the boundary at `period` (R82). -/
def advanceDualDown {n : Nat} (c : Pwm n) : Pwm n × Bool :=
  if c.phase = false ∧ 0 < c.cnt then ({ c with cnt := c.cnt - 1 }, false)
  else if c.cnt + 1 = c.period then ({ c with cnt := c.cnt + 1, phase := false }, true)
  else ({ c with cnt := c.cnt + 1, phase := true }, false)

/-- `Advance()` in dual-slope mode, up first: the second slope runs down from `period` to the boundary at 0 (R82). -/
def advanceDualUp {n : Nat} (c : Pwm n) : Pwm n × Bool :=
  if c.phase = false ∧ c.cnt < c.period then ({ c with cnt := c.cnt + 1 }, false)
  else if c.cnt - 1 = 0 then ({ c with cnt := c.cnt - 1, phase := false }, true)
  else ({ c with cnt := c.cnt - 1, phase := true }, false)

/-- `Advance()` (R82): one count of the carrier, and whether this tick is a period boundary. The 16-bit `+ 1` and `- 1` never
wrap in a state that keeps the invariants of R24 (R84); in the other states they wrap (log entry 5). -/
def advance {n : Nat} (c : Pwm n) : Pwm n × Bool :=
  match c.mode, c.direction with
  | .single, .down => advanceSingleDown c
  | .single, .up => advanceSingleUp c
  | .dual, .down => advanceDualDown c
  | .dual, .up => advanceDualUp c

/-- The next tick is a period boundary (R82). -/
def boundaryNext {n : Nat} (c : Pwm n) : Bool := (advance c).2

/-- `cycle_len`: ticks from one boundary to the next (R83). -/
def cycleLength (mode : SlopeMode) (period : Ticks) : Nat :=
  match mode with
  | .single => period.toNat + 1
  | .dual => 2 * period.toNat

end Sys2Proof.Machine
end

