-- ==== Sys2Proof/Machine/Compare.lean ====
section
/-! DEFINITION. The Compare Channels (41_compare.md): comparison, promotion, match event, and the commands WRDUTY, RDDUTY. -/

namespace Sys2Proof.Machine

/-- `Compare(i)` (R92): the high side is wanted on while the counter is below the active value. -/
def compareResult {n : Nat} (c : Pwm n) (i : Fin n) : Bool := decide (c.cnt < c.active[i])

/-- Promotion (R93): every `active[i] <- pending[i]`, together. -/
def promote {n : Nat} (c : Pwm n) : Pwm n := { c with active := c.pending }

/-- The condition of `Match(i)` (R94). -/
def matchHit {n : Nat} (c : Pwm n) (i : Fin n) : Bool := decide (c.cnt = c.active[i]) && !c.phase

/-- `Match(i)` for every channel (R94). -/
def matchAll {n : Nat} (c : Pwm n) : Pwm n := setMatches (matchHit c) c

/-- `WRDUTY ch, value` (R90): legal running or stopped; a value above the maximum is a ConfigurationError. -/
def execWrduty {n : Nat} (idx : Index) (value : Ticks) (s : State n) : Result n :=
  match channelOf n idx with
  | none => raiseIllegalCommand s
  | some i =>
    if s.pwm.maxDuty < value then raiseConfigurationError s
    else respond 0 (writePending i value s.pwm) s

/-- `RDDUTY ch, sel` (R91): no state changes. -/
def execRdduty {n : Nat} (idx : Index) (sel : DutySel) (s : State n) : Result n :=
  match channelOf n idx with
  | none => raiseIllegalCommand s
  | some i => respond (readDuty sel i s.pwm) s.pwm s

end Sys2Proof.Machine
end

