-- ==== Sys2Proof/Machine/DeadTime.lean ====
section
/-! DEFINITION. The Dead-Time Unit (42_deadtime.md): the dead-time counter of a tick and the command CFGDT. -/

namespace Sys2Proof.Machine

/-- The new `dt_cnt[p]` of `DeadTime(p, r)` (R107): a transition of the raw output reloads it with the interval of the side
about to turn on; otherwise it counts down to 0 and stays there. -/
def deadTimeNext {n : Nat} (c : Pwm n) (p : Fin n) (r : Bool) : DeadTicks :=
  if r ≠ c.raw[p] then (if r then c.dtHigh[p] else c.dtLow[p])
  else if 0 < c.dtCnt[p] then c.dtCnt[p] - 1
  else c.dtCnt[p]

/-- `DeadTime(p, r[p]) ; raw[p] <- r[p]` for every pair (R81 part 5, R107). -/
def deadTimeAll {n : Nat} (r : Fin n → Bool) (c : Pwm n) : Pwm n :=
  { c with
    dtCnt := Vector.ofFn fun p => deadTimeNext c p (r p)
    raw := Vector.ofFn r }

/-- The checks of `CFGDT` that raise ConfigurationError (R105; R151 causes 1 and 8). The sum is a natural number. -/
def cfgdtRejected {n : Nat} (low high : DeadTicks) (c : Pwm n) : Bool :=
  c.enabled || decide (c.period.toNat ≤ low.toNat + high.toNat)

/-- `CFGDT pair, low, high` (R105): `dt_cnt` is not touched, although a frozen one may then break the second half of invariant 6 of
R24 (log entry 8). -/
def execCfgdt {n : Nat} (idx : Index) (low high : DeadTicks) (s : State n) : Result n :=
  match channelOf n idx with
  | none => raiseIllegalCommand s
  | some p =>
    if cfgdtRejected low high s.pwm then raiseConfigurationError s
    else respond 0 (writeDeadTimes p low high s.pwm) s

end Sys2Proof.Machine
end

