-- ==== Sys2Proof/Machine/EventFlags.lean ====
section
/-! DEFINITION. The flag commands RDFLAGS and ACK (44_flags.md). -/

namespace Sys2Proof.Machine

/-- `RDFLAGS` (R140): reading clears nothing. -/
def execRdflags {n : Nat} (s : State n) : Result n := respond (flagWord s.pwm) s.pwm s

/-- `ACK mask` (R141): only the event flags change. -/
def execAck {n : Nat} (mask : BitVec 10) (s : State n) : Result n := respond 0 (acknowledge mask s.pwm) s

end Sys2Proof.Machine
end

