-- ==== Sys2Proof/Machine/Tick.lean ====
section
/-! DEFINITION. The hardware steps: `TICK` (40_carrier.md R81), its boundary part (R85) and `CLK` (R80). -/

namespace Sys2Proof.Machine

/-- `Boundary()` (R85), in its order: promotion, `ovf`, then the Fault Monitor's part. -/
def boundary {n : Nat} (c : Pwm n) : Pwm n := boundaryFault (setOvf (promote c))

/-- Parts 1 and 2 of a tick (R81): advance, and the boundary's work if this tick is one. -/
def advanceAndPromote {n : Nat} (c : Pwm n) : Pwm n :=
  if boundaryNext c then boundary (advance c).1 else (advance c).1

/-- Parts 4 and 5 of a tick (R81): compare every channel, then its dead time; `raw` takes the new results. -/
def compareAndInsert {n : Nat} (c : Pwm n) : Pwm n := deadTimeAll (compareResult c) c

/-- `TICK` (R81): the five parts in their order, each seeing the writes of the parts before it. -/
def tick {n : Nat} (c : Pwm n) : Pwm n := compareAndInsert (matchAll (advanceAndPromote c))

/-- `CLK` (R80): while enabled, every `div`-th input-clock cycle holds one tick. The sum is on natural numbers. -/
def clk {n : Nat} (c : Pwm n) : Pwm n :=
  if c.enabled = false then c
  else if c.div.toNat ≤ c.presc.toNat + 1 then tick { c with presc := 0 }
  else { c with presc := c.presc + 1 }

/-- This `CLK` step holds a tick (R80). -/
def ticksNext {n : Nat} (c : Pwm n) : Bool := c.enabled && decide (c.div.toNat ≤ c.presc.toNat + 1)

end Sys2Proof.Machine
end

