-- ==== Sys2Proof/Machine/Outputs.lean ====
section
/-! DEFINITION. What PWMCORE shows: the gated outputs (42_deadtime.md R112), the pins (43_fault.md R130), the interrupt request
lines (60_exceptions.md R154) and the packed register views (10_state.md R25), all pure functions of the state
(00_scope.md R8). -/

namespace Sys2Proof.Machine

/-- `out_h[p]` is active (R112). -/
def outH {n : Nat} (c : Pwm n) (p : Fin n) : Bool := c.enabled && c.raw[p] && decide (c.dtCnt[p] = 0)

/-- `out_l[p]` is active (R112). -/
def outL {n : Nat} (c : Pwm n) (p : Fin n) : Bool := c.enabled && !c.raw[p] && decide (c.dtCnt[p] = 0)

/-- The level an unforced output drives its pin to: active-high (R112). -/
def levelOf (active : Bool) : Level := if active then .high else .low

/-- `pin_h[p]`: the safe level while forced, else the gated output (R130). -/
def pinH {n : Nat} (c : Pwm n) (p : Fin n) : Level := if c.force then c.safe else levelOf (outH c p)

/-- `pin_l[p]` (R130). -/
def pinL {n : Nat} (c : Pwm n) (p : Fin n) : Level := if c.force then c.safe else levelOf (outL c p)

/-- `irq_fault` (R154). -/
def irqFault {n : Nat} (c : Pwm n) : Bool := c.faultif

/-- `irq_match[i]` (R154). -/
def irqMatch {n : Nat} (c : Pwm n) (i : Fin n) : Bool := c.matchFlag[i]

/-- `irq_ovf` (R154). -/
def irqOvf {n : Nat} (c : Pwm n) : Bool := c.ovf

/-! ## Register views (R25): each configuration register has the layout of bits 27:0 of the command that writes it -/

/-- `CARCFG`. -/
def carcfgView {n : Nat} (c : Pwm n) : Word :=
  place 27 (dirBit c.direction) ||| place 26 (modeBit c.mode) ||| place 16 c.div ||| place 0 c.period

/-- `MAXDUTY`. -/
def maxdutyView {n : Nat} (c : Pwm n) : Word := place 0 c.maxDuty

/-- `DTCFG[p]`. -/
def dtcfgView {n : Nat} (c : Pwm n) (p : Fin n) : Word := place 8 c.dtLow[p] ||| place 0 c.dtHigh[p]

/-- `FLTCFG`. -/
def fltcfgView {n : Nat} (c : Pwm n) : Word :=
  place 27 (restartBit c.restart) ||| place 26 (levelBit c.safe) ||| place 0 c.evmask

/-- `DUTYBUF[i]`. -/
def dutybufView {n : Nat} (c : Pwm n) (i : Fin n) : Word := place 0 c.pending[i]

/-- `DUTY[i]`. -/
def dutyView {n : Nat} (c : Pwm n) (i : Fin n) : Word := place 0 c.active[i]

/-- `FLAGS`. -/
def flagsView {n : Nat} (c : Pwm n) : Word := place 0 (flagWord c)

end Sys2Proof.Machine
end

