-- ==== Sys2Proof/Machine/Dispatch.lean ====
section
/-! DEFINITION. One arm per command, each one call of its meaning. -/

namespace Sys2Proof.Machine

def exec (i : Instr) (s : State) : Host.Outcome State Fault Refusal :=
  match i with
  | .cfgcar period dir mode div => Sys2Proof.Machine.execCfgcar period dir mode div s
  | .cfgmax value => Sys2Proof.Machine.execCfgmax value s
  | .cfgdt idx low high => Sys2Proof.Machine.execCfgdt idx low high s
  | .cfgflt restart safe mask => Sys2Proof.Machine.execCfgflt restart safe mask s
  | .start => Sys2Proof.Machine.execStart s
  | .stop => Sys2Proof.Machine.execStop s
  | .wrduty idx value => Sys2Proof.Machine.execWrduty idx value s
  | .rdduty idx sel => Sys2Proof.Machine.execRdduty idx sel s
  | .fire idx => Sys2Proof.Machine.execFire idx s
  | .clrflt => Sys2Proof.Machine.execClrflt s
  | .status => Sys2Proof.Machine.execStatus s
  | .rdflags => Sys2Proof.Machine.execRdflags s
  | .ack mask => Sys2Proof.Machine.execAck mask s

end Sys2Proof.Machine
end

