-- ==== Sys2Proof/Machine/Agents.lean ====
section
/-! DEFINITION. The four agents' steps on the whole state (00_scope.md R7), in an instance with any number of channels and any
destination mask, and presenting a word at the command port. -/

namespace Sys2Proof.Machine

/-- What runs the decoded commands of an instance with `n` channels. -/
abbrev Executor (n : Nat) := Instr → State n → Result n

/-- `CMD(w)` (R55): decode; a word that is no command raises IllegalCommand; else the command's meaning. -/
def commandStep {n : Nat} (run : Executor n) (w : Word) (s : State n) : Result n :=
  match decodeFor n w with
  | .ok i => run i s
  | .error _ => raiseIllegalCommand s

/-- `CLK` (R80); it has no response word. -/
def clockStep {n : Nat} (s : State n) : Result n := .next (s.answer (clk s.pwm) none)

/-- `EVENT(c)` (R127); it has no response word and does not look at `enabled`. -/
def eventStep {n : Nat} (dest : BitVec 8) (ch : Fin Config.numEventChannels) (s : State n) : Result n :=
  .next (s.answer (trigger dest ch.val s.pwm) none)

/-- `RESET` (R170): every hardware field takes its reset value in one step. The stimuli still waiting belong to the agents
outside and stay (log entry 1). -/
def resetStep {n : Nat} (s : State n) : Result n := .next (s.answer (Pwm.reset n) none)

/-- No agent acts: nothing changes (DESIGN CHOICE, log entry 2). -/
def idleStep {n : Nat} (s : State n) : Result n := .next (s.answer s.pwm none)

/-- One stimulus, taken by its agent. -/
def stimulusStep {n : Nat} (run : Executor n) (dest : BitVec 8) (x : Stimulus) (s : State n) : Result n :=
  match x with
  | .cmd w => commandStep run w s
  | .clk => clockStep s
  | .event ch => eventStep dest ch s
  | .reset => resetStep s

/-- One step of an instance whose commands `run` executes and whose destination mask is `dest`: the oldest waiting stimulus leaves the
list and is taken by its agent; with none waiting, nothing happens (log entries 1 and 2). -/
def nextStep {n : Nat} (run : Executor n) (dest : BitVec 8) (s : State n) : Result n :=
  match s.inputs with
  | [] => idleStep s
  | x :: rest => stimulusStep run dest x (s.withInputs rest)

/-- The state with the host presenting `w` next, before everything that waits. -/
def presentWord {n : Nat} (w : Word) (s : State n) : State n := s.withInputs (.cmd w :: s.inputs)

end Sys2Proof.Machine
end

