-- ==== Sys2Proof/Machine/Step.lean ====
section
/-! DEFINITION. One step: the oldest waiting stimulus is taken by its agent (00_scope.md R7). -/

namespace Sys2Proof.Machine

/-- One step of the machine. -/
def step (s : State) : Host.Outcome State Fault Refusal := nextStep exec Config.destMask s

/-- `s` with the command word of an opcode-table row presented next (log entry 1): the block fetches nothing (R12), so what
stands for a fetch is the host's next word at the command port. -/
def State.withFetchWord (s : State) (nbits w : Nat) : State := presentWord (tableWord nbits w) s

end Sys2Proof.Machine
end

