-- ==== Sys2Proof/Machine/Assembler.lean ====
section
/-! DEFINITION. The textual form of commands and test scripts (30_encoding.md R58 to R60): the assembler, DOC0's API names as
pseudo-instructions, and the stimulus directives. It is not hardware: it makes command words and stimuli for the machine. -/

namespace Sys2Proof.Machine

/-! ## Pseudo-instructions (R59): each is exactly one command -/

/-- `configure_carrier(period, mode, divisor)`: it has no direction and expands with `DOWN` (R59). -/
def configureCarrier (period : Ticks) (mode : SlopeMode) (divisor : Divisor) : Instr := .cfgcar period .down mode divisor

/-- `configure_deadtime(pair_id, low_ticks, high_ticks)` (R59). -/
def configureDeadtime (pair : Index) (low high : DeadTicks) : Instr := .cfgdt pair low high

/-- `configure_fault(restart_mode, safe_level, mask)` (R59). -/
def configureFault (restart : RestartMode) (safe : Level) (mask : BitVec 8) : Instr := .cfgflt restart safe mask

/-- `start()` (R59). -/
def startOperation : Instr := .start

/-- `stop()` (R59). -/
def stopOperation : Instr := .stop

/-- `fire_fault_event(channel_id)` (R59). -/
def fireFaultEvent (channel : Index) : Instr := .fire channel

/-- `clear_fault()` (R59). -/
def clearFault : Instr := .clrflt

/-- `fault_status()` (R59). -/
def faultStatus : Instr := .status

/-- The result of `fault_status()`: Armed if `DATA` = 0, Faulted if `DATA` = 1 (R59). -/
def faultStatusResult (r : Word) : Option FaultState :=
  if responseData r = 0 then some .armed else if responseData r = 1 then some .faulted else none

/-! ## Reading a line of text (R58) -/

/-- The part of a line before its `#` comment. -/
def stripComment (line : List Char) : List Char := line.takeWhile fun ch => ch != '#'

/-- Spaces taken off both ends. -/
def trimSpaces (text : List Char) : List Char :=
  ((text.dropWhile fun ch => ch == ' ').reverse.dropWhile fun ch => ch == ' ').reverse

/-- The pieces of a text between commas. -/
def splitCommas : List Char → List (List Char)
  | [] => [[]]
  | ch :: rest =>
    match splitCommas rest with
    | piece :: more => if ch == ',' then [] :: piece :: more else (ch :: piece) :: more
    | [] => [[ch]]

/-- One digit of a base up to 16. -/
def digitValue (base : Nat) (ch : Char) : Option Nat :=
  let v := if '0' ≤ ch ∧ ch ≤ '9' then ch.toNat - 48
    else if 'a' ≤ ch ∧ ch ≤ 'f' then ch.toNat - 87
    else if 'A' ≤ ch ∧ ch ≤ 'F' then ch.toNat - 55
    else 16
  if v < base then some v else none

/-- The digits of a number, most significant first, after the value `acc` read so far. -/
def readDigits (base acc : Nat) : List Char → Option Nat
  | [] => some acc
  | ch :: rest =>
    match digitValue base ch with
    | some d => readDigits base (base * acc + d) rest
    | none => none

/-- A number: decimal, or hexadecimal with `0x` (R58). -/
def readNumber : List Char → Option Nat
  | [] => none
  | '0' :: 'x' :: d :: rest => readDigits 16 0 (d :: rest)
  | digits => readDigits 10 0 digits

/-- An operand that fits its field; the assembler refuses the others (R58). -/
def fits (width : Nat) (v : Nat) : Option (BitVec width) := if v < 2 ^ width then some (BitVec.ofNat width v) else none

/-- A numeric operand of a field of `width` bits. -/
def numberOperand (width : Nat) (text : List Char) : Option (BitVec width) := (readNumber text).bind (fits width)

def dirOperand (text : List Char) : Option Direction :=
  if text = ['D', 'O', 'W', 'N'] then some .down else if text = ['U', 'P'] then some .up else none

def modeOperand (text : List Char) : Option SlopeMode :=
  if text = ['S', 'I', 'N', 'G', 'L', 'E'] then some .single
  else if text = ['D', 'U', 'A', 'L'] then some .dual else none

def restartOperand (text : List Char) : Option RestartMode :=
  if text = ['L', 'A', 'T', 'C', 'H', 'E', 'D'] then some .latched
  else if text = ['C', 'B', 'C'] then some .cycleByCycle else none

def levelOperand (text : List Char) : Option Level :=
  if text = ['L', 'O', 'W'] then some .low else if text = ['H', 'I', 'G', 'H'] then some .high else none

/-- `SEL`: `ACTIVE` or `PENDING`, which stand for 0 and 1 (R58). -/
def selOperand (text : List Char) : Option DutySel :=
  if text = ['A', 'C', 'T', 'I', 'V', 'E'] then some .active
  else if text = ['P', 'E', 'N', 'D', 'I', 'N', 'G'] then some .pending else none

/-- One command from its mnemonic and its operands in the order of R58. -/
def assembleOperands (mnemonic : String) (ops : List (List Char)) : Option Instr :=
  match mnemonic, ops with
  | "CFGCAR", [p, d, m, v] =>
    (numberOperand 16 p).bind fun p => (dirOperand d).bind fun d => (modeOperand m).bind fun m =>
      (numberOperand 10 v).map fun v => .cfgcar p d m v
  | "CFGMAX", [v] => (numberOperand 16 v).map .cfgmax
  | "CFGDT", [x, l, h] =>
    (numberOperand 4 x).bind fun x => (numberOperand 8 l).bind fun l => (numberOperand 8 h).map fun h => .cfgdt x l h
  | "CFGFLT", [r, l, m] =>
    (restartOperand r).bind fun r => (levelOperand l).bind fun l => (numberOperand 8 m).map fun m => .cfgflt r l m
  | "START", [] => some .start
  | "STOP", [] => some .stop
  | "WRDUTY", [x, v] => (numberOperand 4 x).bind fun x => (numberOperand 16 v).map fun v => .wrduty x v
  | "RDDUTY", [x, e] => (numberOperand 4 x).bind fun x => (selOperand e).map fun e => .rdduty x e
  | "FIRE", [x] => (numberOperand 4 x).map .fire
  | "CLRFLT", [] => some .clrflt
  | "STATUS", [] => some .status
  | "RDFLAGS", [] => some .rdflags
  | "ACK", [m] => (numberOperand 10 m).map .ack
  | _, _ => none

/-- The mnemonic of a trimmed line and its operands. -/
def splitLine (line : List Char) : String × List (List Char) :=
  let rest := trimSpaces (line.dropWhile fun ch => ch != ' ')
  (String.ofList (line.takeWhile fun ch => ch != ' '), if rest = [] then [] else (splitCommas rest).map trimSpaces)

/-! ## Test scripts (R60) -/

/-- A stimulus directive of a test script; it has no encoding (R60). -/
inductive Directive where
  | clk (count : Nat)
  | tick (count : Nat)
  | event (ch : Fin Config.numEventChannels)
  | reset
deriving DecidableEq, Repr

/-- A line of a test script. -/
inductive ScriptLine where
  | blank
  | command (i : Instr)
  | directive (d : Directive)
deriving DecidableEq, Repr

/-- An event channel number that exists. -/
def eventOperand (v : Nat) : Option Directive :=
  if h : v < Config.numEventChannels then some (.event ⟨v, h⟩) else none

/-- A directive from its word and its operands (R60). -/
def readDirective (word : String) (ops : List (List Char)) : Option Directive :=
  match word, ops with
  | "CLK", [v] => (readNumber v).map .clk
  | "TICK", [v] => (readNumber v).map .tick
  | "EVENT", [v] => (readNumber v).bind eventOperand
  | "RESET", [] => some .reset
  | _, _ => none

/-- A line of a test script, or `none` if it is neither blank, a command nor a directive (R58, R60). -/
def readScriptLine (line : List Char) : Option ScriptLine :=
  let text := trimSpaces (stripComment line)
  if text = [] then some .blank
  else
    match assembleOperands (splitLine text).1 (splitLine text).2 with
    | some i => some (.command i)
    | none => (readDirective (splitLine text).1 (splitLine text).2).map .directive

/-- The `CLK` steps it takes until `count` ticks have happened (R60, R80). -/
def clksForTicks {n : Nat} (count : Nat) (c : Pwm n) : Nat :=
  match count with
  | 0 => 0
  | more + 1 => (c.div.toNat - c.presc.toNat) + more * c.div.toNat

/-- The stimuli a directive stands for, in the state it is met in; `TICK` is legal only while enabled (R60). -/
def directiveStimuli {n : Nat} (d : Directive) (c : Pwm n) : Option (List Stimulus) :=
  match d with
  | .clk count => some (List.replicate count .clk)
  | .tick count => if c.enabled then some (List.replicate (clksForTicks count c) .clk) else none
  | .event ch => some [.event ch]
  | .reset => some [.reset]

/-- The stimuli a script line stands for, in the state it is met in. -/
def lineStimuli {n : Nat} (l : ScriptLine) (c : Pwm n) : Option (List Stimulus) :=
  match l with
  | .blank => some []
  | .command i => some [.cmd (encode i)]
  | .directive d => directiveStimuli d c

end Sys2Proof.Machine
end

