-- ==== Sys2Proof/Machine/Builds.lean ====
section
/-! DEFINITION. The machine of every build of PWMCORE: the number of channels (1 to 8) and the destination mask are arguments
(00_scope.md R6; 92_eei_decisions.md D2; 93_implementation_defined.md U3). `exec` and `step` are the build with the stated values. -/

namespace Sys2Proof.Machine

open Sys2Proof.Config (Build)

/-- The meaning of a command in the build `b`. `FIRE` is the only command that looks at the destination mask (R126). -/
def execIn (b : Build) (i : Instr) (s : State b.numChannels) : Result b.numChannels :=
  match i with
  | .cfgcar period dir mode div => execCfgcar period dir mode div s
  | .cfgmax value => execCfgmax value s
  | .cfgdt idx low high => execCfgdt idx low high s
  | .cfgflt restart safe mask => execCfgflt restart safe mask s
  | .start => execStart s
  | .stop => execStop s
  | .wrduty idx value => execWrduty idx value s
  | .rdduty idx sel => execRdduty idx sel s
  | .fire idx => fireFor b.destMask idx s
  | .clrflt => execClrflt s
  | .status => execStatus s
  | .rdflags => execRdflags s
  | .ack mask => execAck mask s

/-- One step of the build `b`. -/
def stepIn (b : Build) (s : State b.numChannels) : Result b.numChannels := nextStep (execIn b) b.destMask s

/-- The build `b` as a machine of its own. -/
def machineOf (b : Build) : Host.Core where
  State := State b.numChannels
  Fault := Fault
  Refusal := Refusal
  step := stepIn b
  reset := State.resetFor b.numChannels

end Sys2Proof.Machine
end

