-- ==== Sys2Proof/Machine/Handlers.lean ====
section
/-! DEFINITION. The reference software of 60_exceptions.md R156 to R161, beside the machine: the priority of the request
lines, the reference handlers command by command, the reference dispatcher, and the system of PWMCORE and its host, in which the
other agents' steps may fall anywhere, inside a handler too. None of it is hardware and none of it is in State (R158, R160); every law of the hardware holds for every host (R157). It is written for every
build: `run` executes the build's commands and `dest` is its destination mask. -/

namespace Sys2Proof.Machine

/-- A source of an interrupt request (R155). -/
inductive Request (n : Nat) where
  | fault
  | compareMatch (i : Fin n)
  | periodBoundary
deriving DecidableEq, Repr

/-- The requests whose lines are high, in the order the reference host serves them: the fault first, then the compare
matches by rising channel number, then the period boundary (R156). -/
def highRequests {n : Nat} (c : Pwm n) : List (Request n) :=
  (if irqFault c then [.fault] else []) ++ ((List.finRange n).filter fun i => irqMatch c i).map .compareMatch
    ++ (if irqOvf c then [.periodBoundary] else [])

/-- The request the reference host serves next (R156, R157). -/
def highestRequest {n : Nat} (c : Pwm n) : Option (Request n) := (highRequests c).head?

/-- The variables of the ramp, which are the host's (R160): `MAXD`, the value the host gave `CFGMAX`, and one increment per
channel. -/
structure RampHost (n : Nat := Config.numChannels) where
  maxd : Nat
  inc : Vector Nat n
deriving DecidableEq, Repr

/-- `(a + inc) mod MAXD` on natural numbers (R158). With `MAXD` = 0 there is no value: the handler must not be
installed then (R158; 93_implementation_defined.md U4, U5). -/
def rampValue (maxd a inc : Nat) : Option Nat := if maxd = 0 then none else some ((a + inc) % maxd)

/-- The value a command answered, `DATA` of its response word (R53). -/
def answeredData {n : Nat} (s : State n) : Nat :=
  match s.response with
  | some r => (responseData r).toNat
  | none => 0

/-! ## The handlers (R158, R161) -/

/-- `RDDUTY i, ACTIVE`, the compare-match handler's first command (R158). -/
def rampRead {n : Nat} (i : Fin n) : Instr := .rdduty (indexOf i) .active

/-- `WRDUTY i, v`, its second (R158). -/
def rampWrite {n : Nat} (i : Fin n) (v : Nat) : Instr := .wrduty (indexOf i) (BitVec.ofNat 16 v)

/-- `ACK (1 << i)`, its third (R158). -/
def rampAck {n : Nat} (i : Fin n) : Instr := .ack (BitVec.ofNat 10 (2 ^ i.val))

/-- Where a running handler stands: the command it issues next. -/
inductive HandlerStage (n : Nat) where
  /-- The compare-match handler of channel `i`, about to read the active value (R158). -/
  | rampRead (i : Fin n)
  /-- ... about to write the new value `v` (R158). -/
  | rampWrite (i : Fin n) (v : Nat)
  /-- ... about to acknowledge the match (R158). -/
  | rampAck (i : Fin n)
  /-- The fault handler, about to acknowledge `faultif` (R161). -/
  | faultAck
  /-- The fault handler after its `ACK`: whatever the application wants, command by command, until it wants nothing more
  (R161). What that is comes from outside, at each move (log entry 9). -/
  | faultApplication
  /-- The period boundary's handler, about to acknowledge `ovf` and do nothing else (DESIGN CHOICE, log entry 9; as program P3
  of 95_test_vectors.md does). -/
  | boundaryAck
deriving DecidableEq, Repr

/-- What the host is doing (R157). It is software: none of it is in State (R158, R160). -/
inductive HostPhase (n : Nat) where
  /-- Nothing, until the next `CLK` or `EVENT` step. -/
  | waiting
  /-- Between handlers: about to start the one of the highest high line or, with none high, to give the application its turn. -/
  | dispatching
  /-- In a handler; handlers do not nest. -/
  | inHandler (g : HandlerStage n)
deriving DecidableEq, Repr

/-- PWMCORE and its reference host. -/
structure System (n : Nat := Config.numChannels) where
  machine : State n
  host : HostPhase n
deriving DecidableEq, Repr

/-- What a move of the system ends in. -/
abbrev SystemResult (n : Nat) := Host.Outcome (System n) Fault Refusal

/-- The host goes on as `phase` after its command ended in `r`. -/
def goOn {n : Nat} (phase : HostPhase n) (r : Result n) : SystemResult n :=
  match r with
  | .next s => .next { machine := s, host := phase }
  | .fault e => .fault e
  | .refused e => .refused e

/-- The host has read the active value: the new one is next. `none` when the handler must not be installed (R158). -/
def afterRead {n : Nat} (h : RampHost n) (i : Fin n) (r : Result n) : Option (SystemResult n) :=
  match r with
  | .next s =>
    (rampValue h.maxd (answeredData s) h.inc[i]).map fun v => .next { machine := s, host := .inHandler (.rampWrite i v) }
  | .fault e => some (.fault e)
  | .refused e => some (.refused e)

/-- One command of a running handler. The compare-match handler reads, adds modulo `MAXD`, writes and acknowledges (R158); the
fault handler acknowledges `faultif`, never issues `CLRFLT` itself, and then lets the application issue the command `app` or,
with none, returns (R161). A handler's return leads back to the dispatcher (R157). -/
def handlerMove {n : Nat} (run : Executor n) (h : RampHost n) (app : Option Word) (g : HandlerStage n) (s : State n) :
    Option (SystemResult n) :=
  match g with
  | .rampRead i => afterRead h i (run (rampRead i) s)
  | .rampWrite i v => some (goOn (.inHandler (.rampAck i)) (run (rampWrite i v) s))
  | .rampAck i => some (goOn .dispatching (run (rampAck i) s))
  | .faultAck => some (goOn (.inHandler .faultApplication) (run (.ack 0x200) s))
  | .faultApplication =>
    match app with
    | some w => some (goOn (.inHandler .faultApplication) (commandStep run w s))
    | none => some (.next { machine := s, host := .dispatching })
  | .boundaryAck => some (goOn .dispatching (run (.ack 0x100) s))

/-- The handler of a request, at its start. -/
def handlerOf {n : Nat} (r : Request n) : HandlerStage n :=
  match r with
  | .fault => .faultAck
  | .compareMatch i => .rampRead i
  | .periodBoundary => .boundaryAck

/-! ## The host and the system (R157) -/

/-- The application issues one command, or none (R157). -/
def applicationTurn {n : Nat} (run : Executor n) (app : Option Word) (s : State n) : Result n :=
  match app with
  | some w => commandStep run w s
  | none => .next s

/-- The dispatcher's move: with a line high, enter the handler of the highest one; with none, the application may issue one
command, and the host waits for the next hardware step (R156, R157). -/
def dispatchMove {n : Nat} (run : Executor n) (app : Option Word) (s : State n) : SystemResult n :=
  match highestRequest s.pwm with
  | some r => .next { machine := s, host := .inHandler (handlerOf r) }
  | none => goOn .waiting (applicationTurn run app s)

/-- One move of the host: at most one command. `app` is what the application wants, should it be its turn. -/
def hostMove {n : Nat} (run : Executor n) (h : RampHost n) (app : Option Word) (y : System n) : Option (SystemResult n) :=
  match y.host with
  | .waiting => some (.next y)
  | .dispatching => some (dispatchMove run app y.machine)
  | .inHandler g => handlerMove run h app g y.machine

/-- The next step is a `CLK` or an `EVENT` step, after which the reference dispatcher runs (R157). -/
def dispatchFollows {n : Nat} (s : State n) : Bool :=
  match s.inputs with
  | .clk :: _ => true
  | .event _ :: _ => true
  | .cmd _ :: _ => false
  | .reset :: _ => false
  | [] => false

/-- What the host does after the step that `s` takes next: a waiting host goes to its dispatcher after a `CLK` or an `EVENT`; a host that
is at work stays where it is, so that a request that arrives while a handler runs is served after it (R157, R161). -/
def phaseAfter {n : Nat} (s : State n) (p : HostPhase n) : HostPhase n :=
  if p = .waiting ∧ dispatchFollows s = true then .dispatching else p

/-- One move of the other agents: the machine's step (R7). It may fall anywhere, inside a handler too. -/
def worldMove {n : Nat} (run : Executor n) (dest : BitVec 8) (y : System n) : SystemResult n :=
  goOn (phaseAfter y.machine y.host) (nextStep run dest y.machine)

/-- Who moves next in the system. -/
inductive Move where
  /-- The agent of the oldest waiting stimulus. -/
  | world
  /-- The host; `app` is what the application wants, should it be its turn. -/
  | host (app : Option Word)
deriving DecidableEq, Repr

def systemMove {n : Nat} (run : Executor n) (dest : BitVec 8) (h : RampHost n) (m : Move) (y : System n) :
    Option (SystemResult n) :=
  match m with
  | .world => some (worldMove run dest y)
  | .host app => hostMove run h app y

/-- The system under any interleaving of the host's commands with the other agents' steps. -/
def systemRun {n : Nat} (run : Executor n) (dest : BitVec 8) (h : RampHost n) : List Move → System n → Option (SystemResult n)
  | [], y => some (.next y)
  | m :: more, y =>
    match systemMove run dest h m y with
    | some (.next z) => systemRun run dest h more z
    | other => other

/-- Move the host, the application wanting nothing, until it waits; at most `fuel` moves. -/
def dispatch {n : Nat} (run : Executor n) (h : RampHost n) : Nat → System n → Option (SystemResult n)
  | 0, y => some (.next y)
  | fuel + 1, y =>
    if y.host = .waiting then some (.next y)
    else
      match hostMove run h none y with
      | some (.next z) => dispatch run h fuel z
      | other => other

/-- The reference dispatcher with no hardware step in between (R157): handlers until no line is high. Four moves for each of the `N`
match lines, three for the fault, two for the boundary and the last one are enough. -/
def dispatchAll {n : Nat} (run : Executor n) (h : RampHost n) (s : State n) : Option (SystemResult n) :=
  dispatch run h (4 * n + 6) { machine := s, host := .dispatching }

/-- It is the application's turn in the host's next move (R157, R161). -/
def applicationMoves {n : Nat} (y : System n) : Bool :=
  match y.host with
  | .waiting => false
  | .dispatching => decide (highestRequest y.machine.pwm = none)
  | .inHandler g => decide (g = .faultApplication)

/-- `k` moves of the system under the reference host's own schedule (R157): after each `CLK` and each `EVENT` step all handlers run to
completion and the application takes its turn before the next stimulus is taken. `apps` says what the application wants, one
entry for each of its turns. -/
def referenceRun {n : Nat} (run : Executor n) (dest : BitVec 8) (h : RampHost n) :
    Nat → List (Option Word) → System n → Option (SystemResult n)
  | 0, _, y => some (.next y)
  | k + 1, apps, y =>
    let turn := applicationMoves y
    let move := if y.host = .waiting then Move.world else Move.host (if turn then apps.headD none else none)
    match systemMove run dest h move y with
    | some (.next z) => referenceRun run dest h k (if turn then apps.tail else apps) z
    | other => other

end Sys2Proof.Machine
end

