-- ==== Sys2Proof/Safety.lean ====
section
/-! DEFINITION. What a legal state and a safe run are: the invariants of 10_state.md R24, mutual exclusion of the outputs
(42_deadtime.md R108), reachability, and the runs the laws of the spec speak of. -/

namespace Sys2Proof.Machine

/-- The invariants of R24, but for the second half of invariant 6 (`DeadCountBounded` below, log entry 8). -/
structure Invariant {n : Nat} (c : Pwm n) : Prop where
  /-- Invariant 1. -/
  period_pos : 1 ≤ c.period.toNat
  div_pos : 1 ≤ c.div.toNat
  /-- Invariant 2. -/
  cnt_le : c.cnt.toNat ≤ c.period.toNat
  presc_lt : c.presc.toNat < c.div.toNat
  single_phase : c.mode = .single → c.phase = false
  /-- Invariant 3. -/
  max_lt : c.maxDuty.toNat < c.period.toNat
  /-- Invariant 4. -/
  active_le : ∀ i : Fin n, (c.active[i]).toNat ≤ c.maxDuty.toNat
  pending_le : ∀ i : Fin n, (c.pending[i]).toNat ≤ c.maxDuty.toNat
  /-- Invariant 5. -/
  raw_iff : ∀ i : Fin n, c.raw[i] = true ↔ c.cnt.toNat < (c.active[i]).toNat
  /-- Invariant 6, first half. -/
  dead_sum : ∀ p : Fin n, (c.dtLow[p]).toNat + (c.dtHigh[p]).toNat < c.period.toNat
  /-- Invariant 7. -/
  faulted_forced : c.fstate = .faulted → c.force = true
  /-- Invariant 8. -/
  second_slope : c.mode = .dual → c.phase = true → 0 < c.cnt.toNat ∧ c.cnt.toNat < c.period.toNat

/-- Invariant 6 of R24, second half. R105 leaves a frozen `dt_cnt` as it is when `CFGDT` lowers the dead times, so a run can
break it (log entry 8). -/
def DeadCountBounded {n : Nat} (c : Pwm n) : Prop :=
  ∀ p : Fin n, (c.dtCnt[p]).toNat ≤ max (c.dtLow[p]).toNat (c.dtHigh[p]).toNat

/-- Not both gated outputs of a pair are active (R108). -/
def OutputsExclusive {n : Nat} (c : Pwm n) : Prop := ∀ p : Fin n, ¬(outH c p = true ∧ outL c p = true)

/-- Every pin is at the safe level (R130, R131). -/
def PinsSafe {n : Nat} (c : Pwm n) : Prop := ∀ p : Fin n, pinH c p = c.safe ∧ pinL c p = c.safe

/-- `t` can be reached from `s` by steps of the machine. -/
inductive Reaches : State → State → Prop where
  | refl (s : State) : Reaches s s
  | tail {s t u : State} : Reaches s t → step t = .next u → Reaches s u

/-- The machine as reset leaves it, with the stimuli `xs` still to come from the agents. -/
def resetWith (xs : List Stimulus) : State := State.reset.withInputs xs

/-- `c` after `k` ticks. -/
def afterTicks {n : Nat} (k : Nat) (c : Pwm n) : Pwm n := tick^[k] c

/-- `c` after `k` input-clock cycles. -/
def afterClks {n : Nat} (k : Nat) (c : Pwm n) : Pwm n := clk^[k] c

/-- The counter stands where a cycle starts: at its start value, on the first slope (R82). -/
def AtCycleStart {n : Nat} (c : Pwm n) : Prop := c.cnt = startValue c.direction c.period ∧ c.phase = false

end Sys2Proof.Machine
end

