-- ==== Sys2Proof/Certificates/Slice0/Obligations.lean ====
section
/-! DEFINITION. The statements for the provers, made from the numbered rules of spec/, and the few predicates they are
written with. Where a statement holds for every number of channels it is stated for every `n`. -/

namespace Sys2Proof.Claims

open Sys2Proof Sys2Proof.Machine

/-! ## The three answers of a command (R53, R150) -/

/-- The state after a command that raised ConfigurationError: `cfgerr` is set, the response is 0x90000000, and nothing else
changes (R150). -/
def rejected (s : State) : State := { s with pwm := { s.pwm with cfgerr := true }, response := some 0x90000000#32 }

/-- The state after IllegalCommand: the response is 0xA0000000 and no hardware field changes (R150). -/
def illegal (s : State) : State := { s with response := some 0xA0000000#32 }

/-- The state after a command that answered `d` and left the hardware as `c`; the stimuli still waiting are unchanged. -/
def accepted (d : Ticks) (c : Pwm Config.numChannels) (s : State) : State :=
  { s with pwm := c, response := some (d.setWidth 32) }

/-! ## Words -/

/-- The bits of the reserved positions of each opcode's format (R51), all payload bits of an unassigned opcode left out. -/
def reservedMask (op : BitVec 4) : Word :=
  if op = 2 then 0x0FFF0000
  else if op = 3 ∨ op = 7 then 0x00FF0000
  else if op = 4 then 0x03FFFF00
  else if op = 5 ∨ op = 6 ∨ op = 10 ∨ op = 11 ∨ op = 12 then 0x0FFFFFFF
  else if op = 8 then 0x00FEFFFF
  else if op = 9 then 0x00FFFFFF
  else if op = 13 then 0x0FFFFC00
  else 0

/-- The index field names nothing that exists, in a format that has one (R55 step 3). -/
def badIndex (n : Nat) (w : Word) : Prop :=
  let op := w.extractLsb' 28 4
  let idx := (w.extractLsb' 24 4).toNat
  ((op = 3 ∨ op = 7 ∨ op = 8) ∧ n ≤ idx) ∨ (op = 9 ∧ 8 ≤ idx)

/-- The complete list of illegal words (R56): an unassigned opcode, a non-zero reserved bit, an index out of range. -/
def illegalWord (n : Nat) (w : Word) : Prop :=
  let op := w.extractLsb' 28 4
  op = 0 ∨ op = 14 ∨ op = 15 ∨ w &&& reservedMask op ≠ 0 ∨ badIndex n w

/-- The stimulus is a command word with this opcode. -/
def isCmd (op : BitVec 4) (x : Stimulus) : Prop := ∃ w : Word, x = .cmd w ∧ w.extractLsb' 28 4 = op

/-! ## Rejections -/

/-- The complete list of causes of ConfigurationError (R151), for a command whose index is in range. -/
def configErrorCause {n : Nat} (i : Instr) (c : Pwm n) : Prop :=
  match i with
  | .cfgcar period _ _ div =>
    c.enabled = true ∨ period = 0 ∨ div = 0 ∨ period.toNat ≤ c.maxDuty.toNat
      ∨ ∃ p : Fin n, period.toNat ≤ (c.dtLow[p]).toNat + (c.dtHigh[p]).toNat
  | .cfgmax value =>
    c.enabled = true ∨ c.period.toNat ≤ value.toNat
      ∨ ∃ i : Fin n, value.toNat < (c.active[i]).toNat ∨ value.toNat < (c.pending[i]).toNat
  | .cfgdt _ low high => c.enabled = true ∨ c.period.toNat ≤ low.toNat + high.toNat
  | .cfgflt _ _ _ => c.enabled = true
  | .start => c.cfgerr = true
  | .stop => False
  | .wrduty _ value => c.maxDuty.toNat < value.toNat
  | .rdduty _ _ => False
  | .fire _ => False
  | .clrflt => False
  | .status => False
  | .rdflags => False
  | .ack _ => False

/-! ## Steps of particular kinds -/

/-- The next step is a `CLK` step that holds a boundary tick (R80, R82). -/
def boundaryClk (s : State) : Prop :=
  (∃ rest, s.inputs = .clk :: rest) ∧ ticksNext s.pwm = true ∧ boundaryNext s.pwm = true

/-- The next step is a `CLK` step that holds a tick (R80). -/
def tickClk (s : State) : Prop := (∃ rest, s.inputs = .clk :: rest) ∧ ticksNext s.pwm = true

/-- The next step is a `RESET` step. -/
def resetNext (s : State) : Prop := ∃ rest, s.inputs = .reset :: rest

/-- The next step is the command `CLRFLT`. -/
def clearNext (s : State) : Prop := ∃ rest, s.inputs = .cmd (encode .clrflt) :: rest

/-- The next step is a command word with this opcode. -/
def cmdNext (op : BitVec 4) (s : State) : Prop := ∃ w rest, s.inputs = .cmd w :: rest ∧ w.extractLsb' 28 4 = op

/-- `Advance()` of R82 on natural numbers: the new `cnt`, the new `phase`, and whether the tick is a boundary. -/
def naturalAdvance (mode : SlopeMode) (dir : Direction) (period cnt : Nat) (phase : Bool) : Nat × Bool × Bool :=
  match mode, dir with
  | .single, .down => if cnt = 0 then (period, phase, true) else (cnt - 1, phase, false)
  | .single, .up => if cnt = period then (0, phase, true) else (cnt + 1, phase, false)
  | .dual, .down =>
    if phase = false ∧ 0 < cnt then (cnt - 1, phase, false)
    else if cnt + 1 = period then (cnt + 1, false, true) else (cnt + 1, true, false)
  | .dual, .up =>
    if phase = false ∧ cnt < period then (cnt + 1, phase, false)
    else if cnt - 1 = 0 then (cnt - 1, false, true) else (cnt - 1, true, false)

/-- Distance of the counter from its start value, `m` ticks into a cycle (the table of R82): out to `period` and, in
dual-slope mode, back. -/
def distanceFromStart (period m : Nat) : Nat := if m ≤ period then m else 2 * period - m

/-- The value of the counter `m` ticks into a cycle (the table of R82). -/
def cycleValue (dir : Direction) (period m : Nat) : Nat :=
  match dir with
  | .down => period - distanceFromStart period m
  | .up => distanceFromStart period m

/-- Ticks of a cycle in which a channel with active value `a` is wanted on (R96). -/
def dutyTicks (mode : SlopeMode) (a : Nat) : Nat :=
  match mode with
  | .single => a
  | .dual => if a = 0 then 0 else 2 * a - 1

/-- The transition table of the Fault Monitor (R121): (`fstate`, `force`) after the stimulus `x`. -/
def nextFault (x : Stimulus) (c : Pwm Config.numChannels) : FaultState × Bool :=
  match x with
  | .reset => (.armed, false)
  | .event ch =>
    if c.evmask.getLsbD ch.val = true ∧ c.fstate = .armed then (.faulted, true) else (c.fstate, c.force)
  | .cmd w =>
    if w = 0xA0000000#32 then (.armed, c.force)
    else if w &&& 0xF8FFFFFF#32 = 0x90000000#32 ∧ c.evmask.getLsbD (w.extractLsb' 24 4).toNat = true ∧ c.fstate = .armed
    then (.faulted, true)
    else (c.fstate, c.force)
  | .clk =>
    if ticksNext c = true ∧ boundaryNext c = true then
      match c.fstate, c.restart with
      | .armed, _ => (.armed, false)
      | .faulted, .cycleByCycle => (.armed, false)
      | .faulted, .latched => (.faulted, c.force)
    else (c.fstate, c.force)

/-- Two hardware states agree on everything but the Fault Monitor's fields and `faultif`. -/
def sameButFault {n : Nat} (c d : Pwm n) : Prop :=
  { c with fstate := d.fstate, force := d.force, restart := d.restart, safe := d.safe, evmask := d.evmask, faultif := d.faultif } = d

/-- The gated output of the side that follows the raw value `v`: the high side for 1, the low side for 0 (R92). -/
def sideActive {n : Nat} (v : Bool) (c : Pwm n) (p : Fin n) : Bool := if v then outH c p else outL c p

/-- The dead time before that side turns on (R107). -/
def sideDeadTime {n : Nat} (v : Bool) (c : Pwm n) (p : Fin n) : Nat :=
  if v then (c.dtHigh[p]).toNat else (c.dtLow[p]).toNat

/-! ## Runs -/

/-- `t` is reached from `s` with no boundary tick and no reset on the way. -/
inductive QuietRun : State → State → Prop where
  | refl (s : State) : QuietRun s s
  | tail {s t u : State} : QuietRun s t → ¬boundaryClk t → ¬resetNext t → step t = .next u → QuietRun s u

/-- `t` is reached from `s` with no `CLRFLT` and no `RESET`, the restart mode being latched after every step. -/
inductive LatchedRun : State → State → Prop where
  | refl (s : State) : LatchedRun s s
  | tail {s t u : State} :
      LatchedRun s t → ¬clearNext t → ¬resetNext t → step t = .next u → u.pwm.restart = .latched → LatchedRun s u

/-- The next step is a `WRDUTY` of channel `i` with `value` that is accepted (R90). -/
def writesDuty (i : Fin Config.numChannels) (value : Ticks) (t u : State) : Prop :=
  ∃ rest, t.inputs = .cmd (encode (.wrduty (indexOf i) value)) :: rest ∧ u.response = some 0x00000000#32

/-- A run from `s` to `t`, with the value the last successful `WRDUTY` of channel `i` on it wrote, if there was one, a
`RESET` counting as a write of 0 (R95). -/
inductive LastWrite (i : Fin Config.numChannels) : State → State → Option Ticks → Prop where
  | refl (s : State) : LastWrite i s s none
  | reset {s t u : State} {o : Option Ticks} : LastWrite i s t o → step t = .next u → resetNext t → LastWrite i s u (some 0)
  | write {s t u : State} {o : Option Ticks} {v : Ticks} :
      LastWrite i s t o → step t = .next u → writesDuty i v t u → LastWrite i s u (some v)
  | other {s t u : State} {o : Option Ticks} :
      LastWrite i s t o → step t = .next u → ¬resetNext t → (∀ v, ¬writesDuty i v t u) → LastWrite i s u o

/-- Where channel `i`'s reference handler stands: not yet invoked since the last boundary, its first command answered with `a`, its
second done, or its third done too (R158). -/
inductive RampStage where
  | waiting
  | read (a : Nat)
  | written
  | done
deriving DecidableEq, Repr

/-- Runs of the system with the reference compare-match handler of channel `i` as the only writer of `pending[i]`, each
invocation between two boundary ticks (R159): how many invocations have ended, where the handler stands, and the state reached.
Any other step may fall between two boundaries, also between the handler's own commands: clocks, events, any command, the
handlers of the other channels. Only three things are kept out there, a `RESET`, another successful `WRDUTY` of the channel, and a
`CFGMAX` that takes `max_duty` below the handler's `MAXD`. A boundary may also pass with no invocation once `pending[i]` has
been promoted. -/
inductive RampRun (h : RampHost) (i : Fin Config.numChannels) (s0 : State) : Nat → RampStage → State → Prop where
  | start : RampRun h i s0 0 .waiting s0
  | between {k : Nat} {g : RampStage} {s t : State} :
      RampRun h i s0 k g s → ¬boundaryClk s → ¬resetNext s → step s = .next t → (∀ v, ¬writesDuty i v s t) →
      h.maxd ≤ t.pwm.maxDuty.toNat → RampRun h i s0 k g t
  | read {k : Nat} {s t : State} :
      RampRun h i s0 k .waiting s → exec (rampRead i) s = .next t → RampRun h i s0 k (.read (answeredData t)) t
  | write {k a v : Nat} {s t : State} :
      RampRun h i s0 k (.read a) s → rampValue h.maxd a h.inc[i] = some v → exec (rampWrite i v) s = .next t →
      RampRun h i s0 k .written t
  | acknowledge {k : Nat} {s t : State} :
      RampRun h i s0 k .written s → exec (rampAck i) s = .next t → RampRun h i s0 (k + 1) .done t
  | boundary {k : Nat} {s t : State} :
      RampRun h i s0 k .done s → boundaryClk s → step s = .next t → RampRun h i s0 k .waiting t
  | idleBoundary {k : Nat} {s t : State} :
      RampRun h i s0 k .waiting s → s.pwm.pending[i] = s.pwm.active[i] → boundaryClk s → step s = .next t →
      RampRun h i s0 k .waiting t

/-- The boot sequence of R172 for all four pairs and channels. -/
def bootScript (period : Ticks) (dir : Direction) (mode : SlopeMode) (div : Divisor) (maxd : Ticks)
    (low high : Vector DeadTicks Config.numChannels) (restart : RestartMode) (safe : Level) (mask : BitVec 8)
    (duty : Vector Ticks Config.numChannels) : List Stimulus :=
  [.cmd (encode (.cfgcar period dir mode div)), .cmd (encode (.cfgmax maxd)),
   .cmd (encode (.cfgdt 0 low[0] high[0])), .cmd (encode (.cfgdt 1 low[1] high[1])),
   .cmd (encode (.cfgdt 2 low[2] high[2])), .cmd (encode (.cfgdt 3 low[3] high[3])),
   .cmd (encode (.cfgflt restart safe mask)),
   .cmd (encode (.wrduty 0 duty[0])), .cmd (encode (.wrduty 1 duty[1])),
   .cmd (encode (.wrduty 2 duty[2])), .cmd (encode (.wrduty 3 duty[3])),
   .cmd (encode .start)]

end Sys2Proof.Claims

open Sys2Proof Sys2Proof.Machine Sys2Proof.Claims

/-! ## Encoding -/

/-- Decoding an encoded command gives it back, for every command that is well formed in an instance of any size: no bit of
an operand is dropped (R51, R52). -/
def Obligations.DecodeOfEncode : Prop :=
  ∀ (n : Nat) (i : Instr), i.wfFor n = true → decodeFor n (encode i) = .ok i

/-- A word that decodes is the word of the command it decodes to, which is well formed: each command has one word
(R50, R55). -/
def Obligations.EncodeOfDecode : Prop :=
  ∀ (n : Nat) (w : Word) (i : Instr), decodeFor n w = .ok i → encode i = w ∧ i.wfFor n = true

/-- The opcode map of R54: a word decodes to a command of a row exactly when `w AND mask == match` for that row (any command
`row` of it stands for it) and its index exists (R55 step 3). -/
def Obligations.DecodeMatchesOpcodeTable : Prop :=
  ∀ (n : Nat) (w : Word) (row : Instr),
    (∃ i, opcodeOf i = opcodeOf row ∧ decodeFor n w = .ok i) ↔ w &&& tableMask row = tableMatch row ∧ ¬badIndex n w

/-- R56: the decoder refuses exactly the words of the complete list, and a refused word at the command port answers 0xA0000000
and changes no hardware state. -/
def Obligations.IllegalWordsAreExactlyTheList : Prop :=
  (∀ (n : Nat) (w : Word), (∃ e, decodeFor n w = .error e) ↔ illegalWord n w) ∧
  (∀ (s : State) (w : Word) (rest : List Stimulus), s.inputs = .cmd w :: rest → illegalWord Config.numChannels w →
    ∃ t, step s = .next t ∧ t.pwm = s.pwm ∧ t.response = some 0xA0000000#32)

/-- A sanity statement on a few words of 95_test_vectors.md section 2.1 (E1 to E14) and four illegal ones. -/
def Obligations.SpecWordsDecode : Prop :=
  decode 0x100103E8 = .ok (.cfgcar 1000 .down .single 1) ∧
  decode 0x1C020004 = .ok (.cfgcar 4 .up .dual 2) ∧
  decode 0x200003DE = .ok (.cfgmax 990) ∧
  decode 0x30000305 = .ok (.cfgdt 0 3 5) ∧
  decode 0x4C000004 = .ok (.cfgflt .cycleByCycle .high 4) ∧
  decode 0x730003DF = .ok (.wrduty 3 991) ∧
  decode 0x82010000 = .ok (.rdduty 2 .pending) ∧
  decode 0x97000000 = .ok (.fire 7) ∧
  decode 0xD000030F = .ok (.ack 0x30F) ∧
  decode 0x00000000 = .error (.unassignedOpcode 0) ∧
  decode 0x50000001 = .error (.reservedBits 5) ∧
  decode 0x34000000 = .error (.indexOutOfRange 4) ∧
  decode 0xFFFFFFFF = .error (.unassignedOpcode 15)

/-! ## Steps -/

/-- A step with a command word at the head of the stimuli runs the decoded command (R7, R55) on the state with that stimulus taken:
that the stimuli wait in a list, of which a step takes the first, is the model's choice (log entry 1). -/
def Obligations.StepRunsDecodedCommand : Prop :=
  ∀ (s : State) (w : Word) (rest : List Stimulus) (i : Instr), s.inputs = .cmd w :: rest → decode w = .ok i →
    step s = exec i { s with inputs := rest }

/-- The word of an opcode-table row, presented next, is the command the very next step runs (log entry 1, the model's
choice of what stands for a fetch); and a word written down as four bytes, the byte of bits 7:0 first, is read back as the same
word (R41). -/
def Obligations.PresentedWordRunsNext : Prop :=
  (∀ (s : State) (nbits w : Nat) (i : Instr), decodeTableWord nbits w = some i →
    step (s.withFetchWord nbits w) = exec i s) ∧
  (∀ w : Word,
    bytesOfWord w = [w.extractLsb' 0 8, w.extractLsb' 8 8, w.extractLsb' 16 8, w.extractLsb' 24 8] ∧
    wordOfBytes (w.extractLsb' 0 8) (w.extractLsb' 8 8) (w.extractLsb' 16 8) (w.extractLsb' 24 8) = w)

/-- R80: a `CLK` step changes nothing while stopped; while enabled it counts the prescaler or, at its end, holds one tick. -/
def Obligations.ClkStepCountsOrTicks : Prop :=
  ∀ (s : State) (rest : List Stimulus), s.inputs = .clk :: rest →
    ∃ t, step s = .next t ∧
      t.pwm =
        if s.pwm.enabled = false then s.pwm
        else if s.pwm.div.toNat ≤ s.pwm.presc.toNat + 1 then tick { s.pwm with presc := 0 }
        else { s.pwm with presc := s.pwm.presc + 1 }

/-- R127: an `EVENT` step delivers one fire of its channel, running or stopped, has no response word and does nothing else. -/
def Obligations.EventStepTriggers : Prop :=
  ∀ (s : State) (ch : Fin Config.numEventChannels) (rest : List Stimulus), s.inputs = .event ch :: rest →
    ∃ t, step s = .next t ∧ t.response = none ∧
      t.pwm =
        if s.pwm.evmask.getLsbD ch.val = true ∧ s.pwm.fstate = .armed then
          { s.pwm with fstate := .faulted, force := true, faultif := true }
        else s.pwm

/-- R170: a `RESET` step writes every field of the hardware with its reset value, whatever the state; it is the only step that
clears `cfgerr`, and the only one besides `CLRFLT` that leaves FAULTED under latched restart. -/
def Obligations.ResetWritesEveryField : Prop :=
  (∀ (s : State) (rest : List Stimulus), s.inputs = .reset :: rest →
    ∃ t, step s = .next t ∧
      t.pwm =
        { period := 0xFFFF, direction := .down, mode := .single, div := 1, enabled := false, cnt := 0xFFFF, phase := false
          presc := 0, maxDuty := 0
          active := Vector.replicate Config.numChannels 0, pending := Vector.replicate Config.numChannels 0
          raw := Vector.replicate Config.numChannels false
          dtLow := Vector.replicate Config.numChannels 0, dtHigh := Vector.replicate Config.numChannels 0
          dtCnt := Vector.replicate Config.numChannels 0
          fstate := .armed, force := false, restart := .latched, safe := .low, evmask := 0
          matchFlag := Vector.replicate Config.numChannels false, ovf := false, faultif := false, cfgerr := false }) ∧
  (∀ s t : State, step s = .next t → ¬resetNext s →
    (s.pwm.cfgerr = true → t.pwm.cfgerr = true) ∧
    (¬clearNext s → s.pwm.fstate = .faulted → s.pwm.restart = .latched → t.pwm.fstate = .faulted))

/-- R171: in the reset state all pins are 0, all request lines low, and the reading commands answer 0. -/
def Obligations.ResetStateOutputs : Prop :=
  (∀ p : Fin Config.numChannels, pinH State.reset.pwm p = .low ∧ pinL State.reset.pwm p = .low ∧
    irqMatch State.reset.pwm p = false) ∧
  irqFault State.reset.pwm = false ∧ irqOvf State.reset.pwm = false ∧
  exec .status State.reset = .next (accepted 0 State.reset.pwm State.reset) ∧
  exec .rdflags State.reset = .next (accepted 0 State.reset.pwm State.reset) ∧
  (∀ (i : Fin Config.numChannels) (sel : DutySel),
    exec (.rdduty (indexOf i) sel) State.reset = .next (accepted 0 State.reset.pwm State.reset))

/-- R183: every step of every agent in every state has a next state, in the machine and in every other build (R6). What it leaves in the
model's own two fields is the model's choice (log entries 1, 2 and 3): one waiting stimulus is gone, there is a response exactly
when a command was taken, and with no stimulus waiting the hardware does not change. The machine is the build with the
stated parameters (log entry 4). -/
def Obligations.EveryStepCompletes : Prop :=
  (∀ s : State, ∃ t, step s = .next t ∧ t.inputs = s.inputs.tail ∧
    (t.response = none ↔ ∀ w rest, s.inputs ≠ .cmd w :: rest) ∧ (s.inputs = [] → t.pwm = s.pwm)) ∧
  (∀ (b : Config.Build) (s : State b.numChannels), ∃ t, stepIn b s = .next t ∧ t.inputs = s.inputs.tail) ∧
  (∀ (i : Instr) (s : State), execIn Config.defaultBuild i s = exec i s) ∧
  (∀ s : State, stepIn Config.defaultBuild s = step s)

/-- R53: a command answers `0x0000dddd`, 0x90000000 or 0xA0000000, and `DATA` is 0 but for the reading commands. -/
def Obligations.ResponseForms : Prop :=
  ∀ (s t : State) (w : Word) (rest : List Stimulus), s.inputs = .cmd w :: rest → step s = .next t →
    ∃ r : Word, t.response = some r ∧
      (r = 0x90000000#32 ∨ r = 0xA0000000#32 ∨ r &&& 0xFFFF0000#32 = 0) ∧
      (¬cmdNext 8 s → ¬cmdNext 11 s → ¬cmdNext 12 s → r = 0x90000000#32 ∨ r = 0xA0000000#32 ∨ r = 0)

/-! ## Commands: the result, the rejection and the frame of each -/

/-- R70, CFGCAR: rejected by each of its five causes; else the four configuration fields, the counter at its start value, `phase`,
`presc`, `raw` and `dt_cnt` are written and nothing else. -/
def Obligations.CfgcarConfiguresOrRejects : Prop :=
  ∀ (period : Ticks) (dir : Direction) (mode : SlopeMode) (div : Divisor) (s : State),
    (s.pwm.enabled = true ∨ period = 0 ∨ div = 0 ∨ period.toNat ≤ s.pwm.maxDuty.toNat
      ∨ (∃ p : Fin Config.numChannels, period.toNat ≤ (s.pwm.dtLow[p]).toNat + (s.pwm.dtHigh[p]).toNat) →
        exec (.cfgcar period dir mode div) s = .next (rejected s)) ∧
    (s.pwm.enabled = false → period ≠ 0 → div ≠ 0 → s.pwm.maxDuty.toNat < period.toNat →
      (∀ p : Fin Config.numChannels, (s.pwm.dtLow[p]).toNat + (s.pwm.dtHigh[p]).toNat < period.toNat) →
        exec (.cfgcar period dir mode div) s = .next (accepted 0
          { s.pwm with
            period := period, direction := dir, mode := mode, div := div
            cnt := if dir = .down then period else 0
            phase := false, presc := 0
            raw := Vector.ofFn fun i => decide ((if dir = .down then period else 0) < s.pwm.active[i])
            dtCnt := Vector.replicate Config.numChannels 0 } s))

/-- R71, CFGMAX: rejected while running, at or above the period, or below a live duty value; else it writes `max_duty` only. -/
def Obligations.CfgmaxSetsOrRejects : Prop :=
  ∀ (value : Ticks) (s : State),
    (s.pwm.enabled = true ∨ s.pwm.period.toNat ≤ value.toNat
      ∨ (∃ i : Fin Config.numChannels, value.toNat < (s.pwm.active[i]).toNat ∨ value.toNat < (s.pwm.pending[i]).toNat) →
        exec (.cfgmax value) s = .next (rejected s)) ∧
    (s.pwm.enabled = false → value.toNat < s.pwm.period.toNat →
      (∀ i : Fin Config.numChannels, (s.pwm.active[i]).toNat ≤ value.toNat ∧ (s.pwm.pending[i]).toNat ≤ value.toNat) →
        exec (.cfgmax value) s = .next (accepted 0 { s.pwm with maxDuty := value } s))

/-- R105, CFGDT: an absent pair is illegal; rejected while running or with a sum at or above the period; else it writes the
two dead times of its pair and nothing else, `dt_cnt` included. -/
def Obligations.CfgdtSetsOrRejects : Prop :=
  ∀ (idx : Index) (low high : DeadTicks) (s : State),
    (Config.numChannels ≤ idx.toNat → exec (.cfgdt idx low high) s = .next (illegal s)) ∧
    (idx.toNat < Config.numChannels → s.pwm.enabled = true ∨ s.pwm.period.toNat ≤ low.toNat + high.toNat →
      exec (.cfgdt idx low high) s = .next (rejected s)) ∧
    (∀ h : idx.toNat < Config.numChannels, s.pwm.enabled = false → low.toNat + high.toNat < s.pwm.period.toNat →
      exec (.cfgdt idx low high) s = .next (accepted 0
        { s.pwm with dtLow := s.pwm.dtLow.set idx.toNat low, dtHigh := s.pwm.dtHigh.set idx.toNat high } s))

/-- R120, CFGFLT: rejected while running; else it writes `restart`, `safe` and `evmask` and nothing else. -/
def Obligations.CfgfltSetsOrRejects : Prop :=
  ∀ (restart : RestartMode) (safe : Level) (mask : BitVec 8) (s : State),
    (s.pwm.enabled = true → exec (.cfgflt restart safe mask) s = .next (rejected s)) ∧
    (s.pwm.enabled = false → exec (.cfgflt restart safe mask) s =
      .next (accepted 0 { s.pwm with restart := restart, safe := safe, evmask := mask } s))

/-- R72 and R73, START and STOP: `START` is rejected while `cfgerr` is set; otherwise each writes `enabled` and nothing
else. -/
def Obligations.StartAndStopWriteEnabled : Prop :=
  ∀ s : State,
    (s.pwm.cfgerr = true → exec .start s = .next (rejected s)) ∧
    (s.pwm.cfgerr = false → exec .start s = .next (accepted 0 { s.pwm with enabled := true } s)) ∧
    exec .stop s = .next (accepted 0 { s.pwm with enabled := false } s)

/-- R90, WRDUTY: an absent channel is illegal; a value above `max_duty` is rejected; else it writes `pending` of its channel
and nothing else, running or stopped. -/
def Obligations.WrdutyWritesPendingOrRejects : Prop :=
  ∀ (idx : Index) (value : Ticks) (s : State),
    (Config.numChannels ≤ idx.toNat → exec (.wrduty idx value) s = .next (illegal s)) ∧
    (idx.toNat < Config.numChannels → s.pwm.maxDuty.toNat < value.toNat →
      exec (.wrduty idx value) s = .next (rejected s)) ∧
    (∀ h : idx.toNat < Config.numChannels, value.toNat ≤ s.pwm.maxDuty.toNat →
      exec (.wrduty idx value) s =
        .next (accepted 0 { s.pwm with pending := s.pwm.pending.set idx.toNat value } s))

/-- R91, RDDUTY: an absent channel is illegal; else it answers the active or the pending value and changes no state. -/
def Obligations.RddutyReads : Prop :=
  ∀ (idx : Index) (s : State),
    (Config.numChannels ≤ idx.toNat → ∀ sel, exec (.rdduty idx sel) s = .next (illegal s)) ∧
    (∀ h : idx.toNat < Config.numChannels,
      exec (.rdduty idx .active) s = .next (accepted (s.pwm.active[idx.toNat]'h) s.pwm s) ∧
      exec (.rdduty idx .pending) s = .next (accepted (s.pwm.pending[idx.toNat]'h) s.pwm s))

/-- R123 with R126, FIRE: an index of 8 or more is illegal; a masked event while Armed latches the fault, turns the override on
and sets `faultif`; any other one answers the same and changes nothing. -/
def Obligations.FireLatchesOrDoesNothing : Prop :=
  ∀ (idx : Index) (s : State),
    (8 ≤ idx.toNat → exec (.fire idx) s = .next (illegal s)) ∧
    (idx.toNat < 8 → s.pwm.evmask.getLsbD idx.toNat = true → s.pwm.fstate = .armed →
      exec (.fire idx) s = .next (accepted 0 { s.pwm with fstate := .faulted, force := true, faultif := true } s)) ∧
    (idx.toNat < 8 → s.pwm.evmask.getLsbD idx.toNat = false ∨ s.pwm.fstate = .faulted →
      exec (.fire idx) s = .next (accepted 0 s.pwm s))

/-- R124 and R125, CLRFLT and STATUS: the clear writes `fstate` and nothing else, `force` and `faultif` included; the status
read answers 0 for Armed and 1 for Faulted and changes no state. -/
def Obligations.ClrfltArmsAndStatusReads : Prop :=
  ∀ s : State,
    exec .clrflt s = .next (accepted 0 { s.pwm with fstate := .armed } s) ∧
    (s.pwm.fstate = .armed → exec .status s = .next (accepted 0 s.pwm s)) ∧
    (s.pwm.fstate = .faulted → exec .status s = .next (accepted 1 s.pwm s))

/-- R140, RDFLAGS: the flag word bit by bit; reading changes no state. -/
def Obligations.RdflagsReadsEveryBit : Prop :=
  ∀ s : State, ∃ d : Ticks, exec .rdflags s = .next (accepted d s.pwm s) ∧
    (∀ i : Fin Config.numChannels, d.getLsbD i.val = s.pwm.matchFlag[i]) ∧
    (∀ k : Nat, Config.numChannels ≤ k → k < 8 → d.getLsbD k = false) ∧
    d.getLsbD 8 = s.pwm.ovf ∧ d.getLsbD 9 = s.pwm.faultif ∧ d.getLsbD 10 = s.pwm.cfgerr ∧
    d.getLsbD 11 = s.pwm.force ∧ d.getLsbD 12 = s.pwm.enabled ∧ d.getLsbD 13 = decide (s.pwm.fstate = .faulted) ∧
    d.getLsbD 14 = false ∧ d.getLsbD 15 = false

/-- R141, ACK: each flag whose mask bit is 1 is cleared, the others keep their value, and nothing else changes. -/
def Obligations.AckClearsMaskedFlags : Prop :=
  ∀ (m : BitVec 10) (s : State), ∃ flags : Vector Bool Config.numChannels,
    exec (.ack m) s = .next (accepted 0
      { s.pwm with
        matchFlag := flags
        ovf := if m.getLsbD 8 then false else s.pwm.ovf
        faultif := if m.getLsbD 9 then false else s.pwm.faultif } s) ∧
    ∀ i : Fin Config.numChannels, flags[i] = if m.getLsbD i.val then false else s.pwm.matchFlag[i]

/-- A command whose index names nothing raises IllegalCommand in its meaning too, before any other check (R152; log entry 11:
decoding never gives such a command). -/
def Obligations.IllFormedCommandIsIllegal : Prop :=
  ∀ (i : Instr) (s : State), i.wf = false → exec i s = .next (illegal s)

/-- R151: the complete list of causes. A well-formed command is rejected, writing nothing but `cfgerr`, exactly when one of them
holds; otherwise it answers without `ERR` and leaves `cfgerr` as it is. -/
def Obligations.ConfigurationErrorCausesComplete : Prop :=
  ∀ (i : Instr) (s : State), i.wf = true →
    (configErrorCause i s.pwm → exec i s = .next (rejected s)) ∧
    (¬configErrorCause i s.pwm → ∃ (t : State) (d : Ticks), exec i s = .next t ∧
      t.response = some (d.setWidth 32) ∧ t.pwm.cfgerr = s.pwm.cfgerr)

/-- R43: every command is idempotent, its response included: given twice with no step in between, the second leaves the state
as the first left it. -/
def Obligations.CommandsIdempotent : Prop :=
  ∀ (i : Instr) (s t : State), exec i s = .next t → exec i t = .next t

/-- R25: after a successful configuration or duty write, the packed register reads as the payload of the command that wrote
it (for the indexed registers, its bits 15:0). -/
def Obligations.RegisterViewsShowTheCommand : Prop :=
  ∀ (i : Instr) (s t : State), i.wf = true → exec i s = .next t → t.response = some 0x00000000#32 →
    match i with
    | .cfgcar _ _ _ _ => carcfgView t.pwm = encode i &&& 0x0FFFFFFF#32
    | .cfgmax _ => maxdutyView t.pwm = encode i &&& 0x0FFFFFFF#32
    | .cfgflt _ _ _ => fltcfgView t.pwm = encode i &&& 0x0FFFFFFF#32
    | .cfgdt idx _ _ => ∀ p : Fin Config.numChannels, p.val = idx.toNat → dtcfgView t.pwm p = encode i &&& 0x0000FFFF#32
    | .wrduty idx _ => ∀ p : Fin Config.numChannels, p.val = idx.toNat → dutybufView t.pwm p = encode i &&& 0x0000FFFF#32
    | .start => True
    | .stop => True
    | .rdduty _ _ => True
    | .fire _ => True
    | .clrflt => True
    | .status => True
    | .rdflags => True
    | .ack _ => True

/-! ## The tick -/

/-- R81, with R85, R92, R107: what one tick does to every field, part by part: the counter advances; at a boundary all channels are
promoted, `ovf` is set and the Fault Monitor's part runs; then match, compare and dead time see the new counter and
the new active values; every other field is unchanged. -/
def Obligations.TickFieldByField : Prop :=
  ∀ (n : Nat) (c : Pwm n),
    (tick c).cnt = (advance c).1.cnt ∧ (tick c).phase = (advance c).1.phase ∧
    (tick c).active = (if boundaryNext c then c.pending else c.active) ∧
    (tick c).ovf = (c.ovf || boundaryNext c) ∧
    (∀ i : Fin n, (tick c).matchFlag[i] =
      (c.matchFlag[i] || (decide ((tick c).cnt = (tick c).active[i]) && !(tick c).phase))) ∧
    (∀ i : Fin n, (tick c).raw[i] = decide ((tick c).cnt < (tick c).active[i])) ∧
    (∀ p : Fin n, (tick c).dtCnt[p] =
      if (tick c).raw[p] ≠ c.raw[p] then (if (tick c).raw[p] then c.dtHigh[p] else c.dtLow[p])
      else if c.dtCnt[p] = 0 then 0 else c.dtCnt[p] - 1) ∧
    (tick c).fstate =
      (if boundaryNext c = true ∧ c.restart = .cycleByCycle then .armed else c.fstate) ∧
    (tick c).force = (if boundaryNext c = true ∧ (tick c).fstate = .armed then false else c.force) ∧
    (tick c).period = c.period ∧ (tick c).direction = c.direction ∧ (tick c).mode = c.mode ∧ (tick c).div = c.div ∧
    (tick c).enabled = c.enabled ∧ (tick c).presc = c.presc ∧ (tick c).maxDuty = c.maxDuty ∧
    (tick c).pending = c.pending ∧ (tick c).dtLow = c.dtLow ∧ (tick c).dtHigh = c.dtHigh ∧
    (tick c).restart = c.restart ∧ (tick c).safe = c.safe ∧ (tick c).evmask = c.evmask ∧
    (tick c).faultif = c.faultif ∧ (tick c).cfgerr = c.cfgerr

/-- R84, with R82: in a state that keeps the invariants the counter advances as the pseudocode says on natural numbers:
nothing wraps, and it stays within `0..period`. -/
def Obligations.CounterNeverWraps : Prop :=
  ∀ (n : Nat) (c : Pwm n), Invariant c →
    ((advance c).1.cnt.toNat, (advance c).1.phase, boundaryNext c) =
        naturalAdvance c.mode c.direction c.period.toNat c.cnt.toNat c.phase ∧
    (advance c).1.cnt.toNat ≤ c.period.toNat

/-- The table of R82: from the start of a cycle, the value of the counter and the phase after any number of ticks, in every
mode and direction. -/
def Obligations.CounterSequence : Prop :=
  ∀ (n : Nat) (c : Pwm n) (k : Nat), 1 ≤ c.period.toNat → AtCycleStart c →
    (afterTicks k c).cnt.toNat =
        cycleValue c.direction c.period.toNat (k % cycleLength c.mode c.period) ∧
    (afterTicks k c).phase = decide (c.period.toNat < k % cycleLength c.mode c.period)

/-- R83: counting ticks from the start of a cycle, which is where `CFGCAR` leaves the counter, tick number `k + 1` is a
boundary exactly when it is a multiple of `cycle_len`. -/
def Obligations.BoundaryEveryCycleLength : Prop :=
  (∀ (period : Ticks) (dir : Direction) (mode : SlopeMode) (div : Divisor) (s t : State),
    exec (.cfgcar period dir mode div) s = .next t → t.response = some 0x00000000#32 → AtCycleStart t.pwm) ∧
  (∀ (n : Nat) (c : Pwm n) (k : Nat), 1 ≤ c.period.toNat → AtCycleStart c →
    (boundaryNext (afterTicks k c) = true ↔ (k + 1) % cycleLength c.mode c.period = 0))

/-- R80, with R72 and R86: while enabled, the first tick comes `div - presc` `CLK` steps later, and until then only `presc`
changes; while stopped no number of `CLK` steps changes anything. -/
def Obligations.FirstTickAfterPrescaler : Prop :=
  ∀ (n : Nat) (c : Pwm n),
    (c.enabled = true → c.presc.toNat < c.div.toNat →
      (∀ j : Nat, j < c.div.toNat - c.presc.toNat →
        afterClks j c = { c with presc := BitVec.ofNat 10 (c.presc.toNat + j) }) ∧
      afterClks (c.div.toNat - c.presc.toNat) c = tick { c with presc := 0 }) ∧
    (c.enabled = false → ∀ k : Nat, afterClks k c = c)

/-- R96: over one cycle that starts where the state stands, channel `i` is wanted on for exactly `active[i]` ticks in single-slope
mode, and for `2 * active[i] - 1` ticks (0 if `active[i]` is 0) in dual-slope mode, and off for the rest of the cycle. -/
def Obligations.DutyTicksPerCycle : Prop :=
  ∀ (n : Nat) (c : Pwm n) (i : Fin n), Invariant c → AtCycleStart c →
    (List.range (cycleLength c.mode c.period)).countP (fun j => (afterTicks j c).raw[i]) =
      dutyTicks c.mode (c.active[i]).toNat ∧
    (List.range (cycleLength c.mode c.period)).countP (fun j => !(afterTicks j c).raw[i]) =
      cycleLength c.mode c.period - dutyTicks c.mode (c.active[i]).toNat

/-- R94: in every mode and direction, exactly one of the states of a cycle meets the match condition of channel `i`. -/
def Obligations.OneMatchPerCycle : Prop :=
  ∀ (n : Nat) (c : Pwm n) (i : Fin n), Invariant c → AtCycleStart c →
    (List.range (cycleLength c.mode c.period)).countP
      (fun j => decide ((afterTicks j c).cnt = (afterTicks j c).active[i]) && !(afterTicks j c).phase) = 1

/-! ## Double buffering -/

/-- R93: promotion happens in a boundary tick, whatever the Fault Monitor's state and the flags, before the comparison of that
tick, and in no other step; only `RESET` writes `active` otherwise. -/
def Obligations.PromotionOnlyAtBoundary : Prop :=
  ∀ s t : State, step s = .next t →
    (boundaryClk s → t.pwm.active = s.pwm.pending ∧
      ∀ i : Fin Config.numChannels, t.pwm.raw[i] = decide (t.pwm.cnt < s.pwm.pending[i])) ∧
    (resetNext s → t.pwm.active = Vector.replicate Config.numChannels 0) ∧
    (¬boundaryClk s → ¬resetNext s → t.pwm.active = s.pwm.active)

/-- R95: from one boundary to the next, whatever commands, events or ticks happen in between, `active` does not change, and the
next boundary gives it the `pending` of the state just before; and `pending[i]` is, on any run, the value of the last
successful `WRDUTY` of the channel, or 0 if there was none since the last `RESET`, or what it was at the start of a run with
neither. -/
def Obligations.DoubleBufferingLaw : Prop :=
  (∀ s t : State, QuietRun s t → t.pwm.active = s.pwm.active) ∧
  (∀ t u : State, boundaryClk t → step t = .next u → u.pwm.active = t.pwm.pending) ∧
  (∀ (i : Fin Config.numChannels) (s t : State) (o : Option Ticks), LastWrite i s t o →
    t.pwm.pending[i] = o.getD s.pwm.pending[i])

/-! ## Dead time and outputs -/

/-- R108, and 90_conflicts.md C4: in every state not both gated outputs of a pair are active; and not both pins are at level 1
unless they are forced to `safe` = HIGH, when both are. -/
def Obligations.MutualExclusion : Prop :=
  ∀ (n : Nat) (c : Pwm n), OutputsExclusive c ∧
    (c.force = false ∨ c.safe = .low → ∀ p : Fin n, ¬(pinH c p = .high ∧ pinL c p = .high)) ∧
    (c.force = true → c.safe = .high → ∀ p : Fin n, pinH c p = .high ∧ pinL c p = .high)

/-- R114: `START`, when accepted, makes the side its `raw` wants active in the same step wherever no dead time is left; `STOP` makes all
gated outputs inactive; an accepted `CFGCAR` has no visible effect on the pins. -/
def Obligations.OutputsAtStartStopCfgcar : Prop :=
  ∀ s t : State,
    (exec .start s = .next t → t.response = some 0x00000000#32 → ∀ p : Fin Config.numChannels, s.pwm.dtCnt[p] = 0 →
      outH t.pwm p = s.pwm.raw[p] ∧ outL t.pwm p = !s.pwm.raw[p]) ∧
    (exec .stop s = .next t → ∀ p : Fin Config.numChannels, outH t.pwm p = false ∧ outL t.pwm p = false) ∧
    (∀ period dir mode div, exec (.cfgcar period dir mode div) s = .next t → t.response = some 0x00000000#32 →
      ∀ p : Fin Config.numChannels, pinH t.pwm p = pinH s.pwm p ∧ pinL t.pwm p = pinL s.pwm p)

/-- R112 and R130: the gated outputs and the pins. -/
def Obligations.GatedOutputsAndPins : Prop :=
  ∀ (n : Nat) (c : Pwm n) (p : Fin n),
    (outH c p = true ↔ c.enabled = true ∧ c.raw[p] = true ∧ c.dtCnt[p] = 0) ∧
    (outL c p = true ↔ c.enabled = true ∧ c.raw[p] = false ∧ c.dtCnt[p] = 0) ∧
    (c.force = true → pinH c p = c.safe ∧ pinL c p = c.safe) ∧
    (c.force = false → (pinH c p = .high ↔ outH c p = true) ∧ (pinL c p = .high ↔ outL c p = true))

/-- R109: let a tick change `raw[p]` to `v` while enabled, and let it stay `v` for `m` more ticks. While `m` is less than the dead time
of that side both outputs are inactive; from then on that side is active. The old side is inactive all the while. -/
def Obligations.DeadTimeLaw : Prop :=
  ∀ (n : Nat) (c : Pwm n) (p : Fin n) (v : Bool) (m : Nat), c.enabled = true → c.raw[p] ≠ v →
    (∀ j : Nat, j ≤ m → (afterTicks (j + 1) c).raw[p] = v) →
    (m < sideDeadTime v c p →
      outH (afterTicks (m + 1) c) p = false ∧ outL (afterTicks (m + 1) c) p = false) ∧
    (sideDeadTime v c p ≤ m → sideActive v (afterTicks (m + 1) c) p = true) ∧
    sideActive (!v) (afterTicks (m + 1) c) p = false

/-- R110, first sentence: of a run of `k` ticks with `raw[p] = v` that begins with a transition, the side is active in all
but the dead time. -/
def Obligations.ActiveTicksOfRun : Prop :=
  ∀ (n : Nat) (c : Pwm n) (p : Fin n) (v : Bool) (k : Nat), c.enabled = true → c.raw[p] ≠ v →
    (∀ j : Nat, j < k → (afterTicks (j + 1) c).raw[p] = v) →
    (List.range k).countP (fun j => sideActive v (afterTicks (j + 1) c) p) = k - sideDeadTime v c p

/-- R111: after any transition, one cut short by another included, both outputs stay inactive for at least `min(L, H)` ticks. -/
def Obligations.MinimumDeadTime : Prop :=
  ∀ (n : Nat) (c : Pwm n) (p : Fin n) (m : Nat), (tick c).raw[p] ≠ c.raw[p] →
    m < min (c.dtLow[p]).toNat (c.dtHigh[p]).toNat →
    outH (afterTicks (m + 1) c) p = false ∧ outL (afterTicks (m + 1) c) p = false

/-! ## The Fault Monitor -/

/-- R126, for every `DEST_MASK` and every number of channels: an event that is not routed, not masked in, or that comes while
Faulted changes nothing; any other one latches. With R129: after a boundary's part and a clear, in that order, a masked event
wins: the result is (FAULTED, 1). -/
def Obligations.TriggerForEveryDestMask : Prop :=
  ∀ (n : Nat) (dest : BitVec 8) (ch : Fin Config.numEventChannels) (c : Pwm n),
    (dest.getLsbD ch.val = false ∨ c.evmask.getLsbD ch.val = false ∨ c.fstate = .faulted → trigger dest ch.val c = c) ∧
    (dest.getLsbD ch.val = true → c.evmask.getLsbD ch.val = true → c.fstate = .armed →
      trigger dest ch.val c = { c with fstate := .faulted, force := true, faultif := true }) ∧
    (dest.getLsbD ch.val = true → c.evmask.getLsbD ch.val = true →
      (trigger dest ch.val { boundaryFault c with fstate := .armed }).fstate = .faulted ∧
      (trigger dest ch.val { boundaryFault c with fstate := .armed }).force = true)

/-- R121: (`fstate`, `force`) after any step is what the transition table says, no step outside the table changes it, and latching sets
`faultif`, which no other row of it writes. -/
def Obligations.FaultMonitorTransitionTable : Prop :=
  ∀ (s t : State) (x : Stimulus) (rest : List Stimulus), s.inputs = x :: rest → step s = .next t →
    (t.pwm.fstate, t.pwm.force) = nextFault x s.pwm ∧
    (s.pwm.fstate = .armed → t.pwm.fstate = .faulted → t.pwm.faultif = true) ∧
    (s.pwm.fstate = .faulted ∨ t.pwm.fstate = .armed → x ≠ .reset → ¬isCmd 13 x → t.pwm.faultif = s.pwm.faultif)

/-- R131, the latch law: Faulted (with the override on, invariant 7 of R24) under latched restart, any run with no `CLRFLT` and no
`RESET`, for as long as the restart mode stays latched, leaves the monitor Faulted, the override on and every pin at the safe
level. -/
def Obligations.LatchLaw : Prop :=
  ∀ s t : State, s.pwm.fstate = .faulted → s.pwm.force = true → s.pwm.restart = .latched → LatchedRun s t →
    t.pwm.fstate = .faulted ∧ t.pwm.force = true ∧ PinsSafe t.pwm

/-- R153 and R134: the Fault Monitor disturbs nothing else. Two runs that differ only in its fields and `faultif` take steps that
differ only there, and every command but the two that read those fields answers the same. -/
def Obligations.FaultStateDisturbsNothingElse : Prop :=
  ∀ s s' t t' : State, s.inputs = s'.inputs → sameButFault s.pwm s'.pwm → step s = .next t → step s' = .next t' →
    sameButFault t.pwm t'.pwm ∧ t.inputs = t'.inputs ∧
    (¬cmdNext 11 s → ¬cmdNext 12 s → t.response = t'.response)

/-! ## Flags, errors, invariants -/

/-- R19 and R155: what sets each flag, and nothing else does: `ovf` a boundary tick, `match[i]` a tick with the match condition, `faultif` the
step that takes the monitor from Armed to Faulted, `cfgerr` a command that raises ConfigurationError. -/
def Obligations.FlagsSetOnlyByTheirEvents : Prop :=
  ∀ s t : State, step s = .next t →
    (s.pwm.ovf = false → (t.pwm.ovf = true ↔ boundaryClk s)) ∧
    (∀ i : Fin Config.numChannels, s.pwm.matchFlag[i] = false → (t.pwm.matchFlag[i] = true ↔
      (∃ rest, s.inputs = .clk :: rest) ∧ ticksNext s.pwm = true ∧ t.pwm.cnt = t.pwm.active[i] ∧ t.pwm.phase = false)) ∧
    (s.pwm.faultif = false → (t.pwm.faultif = true ↔ s.pwm.fstate = .armed ∧ t.pwm.fstate = .faulted)) ∧
    (s.pwm.cfgerr = false → (t.pwm.cfgerr = true ↔ t.response = some 0x90000000#32))

/-- R154: each request line is the plain level of its flag, and once high it is high until the `ACK` with its mask bit, or the `RESET`,
that clears it. -/
def Obligations.RequestLinesHoldUntilAck : Prop :=
  (∀ c : Pwm Config.numChannels, irqFault c = c.faultif ∧ irqOvf c = c.ovf ∧
    ∀ i : Fin Config.numChannels, irqMatch c i = c.matchFlag[i]) ∧
  ∀ s t : State, step s = .next t → ¬resetNext s →
    (irqFault s.pwm = true → irqFault t.pwm = false → ∃ m rest, s.inputs = .cmd (encode (.ack m)) :: rest ∧ m.getLsbD 9 = true) ∧
    (irqOvf s.pwm = true → irqOvf t.pwm = false → ∃ m rest, s.inputs = .cmd (encode (.ack m)) :: rest ∧ m.getLsbD 8 = true) ∧
    (∀ i : Fin Config.numChannels, irqMatch s.pwm i = true → irqMatch t.pwm i = false →
      ∃ m rest, s.inputs = .cmd (encode (.ack m)) :: rest ∧ m.getLsbD i.val = true)

/-- The writers column of R10: a field changes only in a step of a kind named in its row. -/
def Obligations.FieldsChangeOnlyByTheirWriters : Prop :=
  ∀ (s t : State) (x : Stimulus) (rest : List Stimulus), s.inputs = x :: rest → step s = .next t → x ≠ .reset →
    (¬isCmd 1 x → t.pwm.period = s.pwm.period ∧ t.pwm.direction = s.pwm.direction ∧ t.pwm.mode = s.pwm.mode ∧
      t.pwm.div = s.pwm.div) ∧
    (¬isCmd 2 x → t.pwm.maxDuty = s.pwm.maxDuty) ∧
    (¬isCmd 3 x → t.pwm.dtLow = s.pwm.dtLow ∧ t.pwm.dtHigh = s.pwm.dtHigh) ∧
    (¬isCmd 4 x → t.pwm.restart = s.pwm.restart ∧ t.pwm.safe = s.pwm.safe ∧ t.pwm.evmask = s.pwm.evmask) ∧
    (¬isCmd 5 x → ¬isCmd 6 x → t.pwm.enabled = s.pwm.enabled) ∧
    (¬isCmd 7 x → t.pwm.pending = s.pwm.pending) ∧
    (x ≠ .clk → ¬isCmd 1 x → t.pwm.presc = s.pwm.presc) ∧
    (¬tickClk s → ¬isCmd 1 x → t.pwm.cnt = s.pwm.cnt ∧ t.pwm.phase = s.pwm.phase ∧ t.pwm.raw = s.pwm.raw ∧
      t.pwm.dtCnt = s.pwm.dtCnt) ∧
    (¬boundaryClk s → t.pwm.active = s.pwm.active) ∧
    (¬tickClk s → ¬isCmd 13 x → t.pwm.matchFlag = s.pwm.matchFlag ∧ t.pwm.ovf = s.pwm.ovf) ∧
    (¬isCmd 9 x → (∀ ch, x ≠ .event ch) → ¬isCmd 13 x → t.pwm.faultif = s.pwm.faultif) ∧
    (¬isCmd 9 x → (∀ ch, x ≠ .event ch) → ¬isCmd 10 x → ¬(boundaryClk s ∧ s.pwm.restart = .cycleByCycle) →
      t.pwm.fstate = s.pwm.fstate) ∧
    (¬isCmd 9 x → (∀ ch, x ≠ .event ch) → ¬boundaryClk s → t.pwm.force = s.pwm.force) ∧
    (t.response ≠ some 0x90000000#32 → t.pwm.cfgerr = s.pwm.cfgerr)

/-- R151 and R178: a configuration error is fatal to start-up. Once `cfgerr` is set and the carrier is stopped, no run without a
`RESET` starts it again: it stays stopped and every gated output inactive. -/
def Obligations.ConfigurationErrorFatalToStartup : Prop :=
  ∀ s t : State, s.pwm.cfgerr = true → s.pwm.enabled = false → .reset ∉ s.inputs → Reaches s t →
    t.pwm.cfgerr = true ∧ t.pwm.enabled = false ∧
    ∀ p : Fin Config.numChannels, outH t.pwm p = false ∧ outL t.pwm p = false

/-- R171 and R24: the reset state, in every build, keeps every invariant, the second half of invariant 6 included. -/
def Obligations.InvariantAtReset : Prop :=
  (Invariant State.reset.pwm ∧ DeadCountBounded State.reset.pwm) ∧
  ∀ b : Config.Build, Invariant (State.resetFor b.numChannels).pwm ∧ DeadCountBounded (State.resetFor b.numChannels).pwm

/-- R24 (all but the second half of invariant 6, log entry 8): every step of every agent keeps the invariants, in the machine and
in every other build. -/
def Obligations.StepKeepsInvariant : Prop :=
  (∀ s t : State, Invariant s.pwm → step s = .next t → Invariant t.pwm) ∧
  (∀ (b : Config.Build) (s t : State b.numChannels), Invariant s.pwm → stepIn b s = .next t → Invariant t.pwm)

/-- R98, the range law: in every state reachable from reset, whatever the agents do, `0 <= active[i] <= max_duty < period`. -/
def Obligations.RangeLaw : Prop :=
  ∀ (xs : List Stimulus) (t : State), Reaches (resetWith xs) t →
    t.pwm.maxDuty.toNat < t.pwm.period.toNat ∧
    ∀ i : Fin Config.numChannels, (t.pwm.active[i]).toNat ≤ t.pwm.maxDuty.toNat

/-- The second half of invariant 6 of R24, as the spec words it: in every reachable state `dt_cnt[p] <= max(dt_low[p], dt_high[p])`. It
is expected to fail: R105 lets `CFGDT` lower the dead times under a frozen `dt_cnt` (log entry 8). -/
def Obligations.DeadCountBoundedWhenReachable : Prop :=
  ∀ (xs : List Stimulus) (t : State), Reaches (resetWith xs) t → DeadCountBounded t.pwm

/-- What does hold of the second half of invariant 6 of R24: every step keeps it, but for a `CFGDT` that is accepted while some
`dt_cnt` has not run down (log entry 8). -/
def Obligations.DeadCountBoundKeptButByCfgdt : Prop :=
  ∀ s t : State, DeadCountBounded s.pwm → step s = .next t →
    ¬(cmdNext 3 s ∧ t.response = some 0x00000000#32 ∧ ∃ p : Fin Config.numChannels, s.pwm.dtCnt[p] ≠ 0) →
    DeadCountBounded t.pwm

/-! ## Whole runs -/

/-- R172: the boot sequence, with values that pass the checks, is accepted whole from reset and leaves the carrier running at the
start of its first cycle with the configuration given and every duty value waiting in `pending`. -/
def Obligations.BootSequenceStarts : Prop :=
  ∀ (period : Ticks) (dir : Direction) (mode : SlopeMode) (div : Divisor) (maxd : Ticks)
    (low high : Vector DeadTicks Config.numChannels) (restart : RestartMode) (safe : Level) (mask : BitVec 8)
    (duty : Vector Ticks Config.numChannels),
    div ≠ 0 → maxd.toNat < period.toNat →
    (∀ p : Fin Config.numChannels, (low[p]).toNat + (high[p]).toNat < period.toNat) →
    (∀ i : Fin Config.numChannels, (duty[i]).toNat ≤ maxd.toNat) →
    Host.Core.run Sys2Proof.core 12 (resetWith (bootScript period dir mode div maxd low high restart safe mask duty)) =
      .next
        { inputs := []
          response := some 0x00000000#32
          pwm :=
            { Pwm.reset Config.numChannels with
              period := period, direction := dir, mode := mode, div := div
              cnt := if dir = .down then period else 0
              maxDuty := maxd, pending := duty, dtLow := low, dtHigh := high
              restart := restart, safe := safe, evmask := mask, enabled := true } }

/-- R156: the reference host's priority: the fault first, then the compare matches by rising channel number, then the period
boundary; none when every line is low. -/
def Obligations.RequestPriority : Prop :=
  ∀ (n : Nat) (c : Pwm n),
    (highestRequest c = some .fault ↔ irqFault c = true) ∧
    (∀ i : Fin n, highestRequest c = some (.compareMatch i) ↔
      irqFault c = false ∧ irqMatch c i = true ∧ ∀ j : Fin n, j.val < i.val → irqMatch c j = false) ∧
    (highestRequest c = some .periodBoundary ↔
      irqFault c = false ∧ (∀ i : Fin n, irqMatch c i = false) ∧ irqOvf c = true) ∧
    (highestRequest c = none ↔ irqFault c = false ∧ (∀ i : Fin n, irqMatch c i = false) ∧ irqOvf c = false)

/-- R157, with the handlers of R158 and R161, in every build. With no other step in between and an application that wants nothing, the
reference dispatcher serves every high line and stops with all of them low: each channel whose match line was high has its next
ramp value pending, the flags of the three sources are clear, and nothing else of the hardware changes (that the period boundary
is answered by `ACK 0x100` alone is the model's choice, log entry 9). And with other steps in between: a fault that an `EVENT`
latches while a handler runs forces the pins in that step and leaves the handler running; when the handler has returned, the host
enters the fault handler first, whose one command of its own is `ACK 0x200`. -/
def Obligations.DispatcherServesEveryRequest : Prop :=
  (∀ (b : Config.Build) (h : RampHost b.numChannels) (s : State b.numChannels),
    0 < h.maxd → h.maxd ≤ s.pwm.maxDuty.toNat →
    dispatchAll (execIn b) h s = some (.next
      { host := .waiting
        machine :=
          { s with
            response := if highestRequest s.pwm = none then s.response else some 0x00000000#32
            pwm :=
              { s.pwm with
                pending := Vector.ofFn fun i =>
                  if s.pwm.matchFlag[i] then BitVec.ofNat 16 (((s.pwm.active[i]).toNat + h.inc[i]) % h.maxd)
                  else s.pwm.pending[i]
                matchFlag := Vector.replicate b.numChannels false
                ovf := false
                faultif := false } } })) ∧
  (∀ (b : Config.Build) (y z : System b.numChannels) (g : HandlerStage b.numChannels)
    (ch : Fin Config.numEventChannels) (rest : List Stimulus),
    y.host = .inHandler g → y.machine.inputs = .event ch :: rest → maskedEvent b.destMask ch.val y.machine.pwm = true →
    y.machine.pwm.fstate = .armed → worldMove (execIn b) b.destMask y = .next z →
    z.host = .inHandler g ∧ PinsSafe z.machine.pwm ∧ irqFault z.machine.pwm = true) ∧
  (∀ (b : Config.Build) (h : RampHost b.numChannels) (app : Option Word) (s : State b.numChannels),
    irqFault s.pwm = true →
    hostMove (execIn b) h app { machine := s, host := .dispatching } =
      some (.next { machine := s, host := .inHandler .faultAck })) ∧
  (∀ (b : Config.Build) (h : RampHost b.numChannels) (app : Option Word) (s : State b.numChannels),
    hostMove (execIn b) h app { machine := s, host := .inHandler .faultAck } =
      some (.next
        { host := .inHandler .faultApplication
          machine := { s with pwm := { s.pwm with faultif := false }, response := some 0x00000000#32 } }))

/-- R159, the ramp law: with the reference handler as the only writer of `pending[i]` and each of its invocations between two
boundaries, after the `k`-th invocation `pending[i]`, and after the boundary that follows it `active[i]`, is
`(a0 + k*inc[i]) mod MAXD`. -/
def Obligations.RampLaw : Prop :=
  ∀ (h : RampHost) (i : Fin Config.numChannels) (s0 t : State) (k : Nat) (g : RampStage),
    0 < h.maxd → h.maxd ≤ s0.pwm.maxDuty.toNat → RampRun h i s0 k g t →
    (g = .done → (t.pwm.pending[i]).toNat = ((s0.pwm.active[i]).toNat + k * h.inc[i]) % h.maxd) ∧
    (g = .waiting → 1 ≤ k → (t.pwm.active[i]).toNat = ((s0.pwm.active[i]).toNat + k * h.inc[i]) % h.maxd)
end

