-- ==== Sys2Proof/Laws/Decode.lean ====
section
/-! SUPPORT. Fields of words made by `place`: what the proofs about encodings are put together from. -/

namespace Sys2Proof

@[simp] theorem field_or (lo k : Nat) (a b : Word) : field lo k (a ||| b) = field lo k a ||| field lo k b := by
  ext i hi
  simp [field]

/-- A placed value is read back from its own place. -/
theorem field_place_same {k : Nat} (lo : Nat) (v : BitVec k) (h : lo + k ≤ 32) : field lo k (place lo v) = v := by
  ext i hi
  simp [field, place, show lo + i < 32 by omega, BitVec.getLsbD_eq_getElem hi]

/-- A field below a placed value reads 0. -/
theorem field_place_above {k m : Nat} (lo lo' : Nat) (v : BitVec k) (h : lo' + m ≤ lo) : field lo' m (place lo v) = 0 := by
  ext i hi
  simp [field, place, show lo' + i < lo by omega]

/-- A field above a placed value reads 0. -/
theorem field_place_below {k m : Nat} (lo lo' : Nat) (v : BitVec k) (h : lo + k ≤ lo') : field lo' m (place lo v) = 0 := by
  ext i hi
  simp only [field, place, BitVec.getElem_extractLsb', BitVec.getLsbD_shiftLeft, BitVec.getLsbD_setWidth]
  rw [BitVec.getLsbD_of_ge v _ (by omega)]
  simp

/-- A placed value has no bit in common with a mask whose field there is 0. -/
theorem place_and_eq_zero {k : Nat} (lo : Nat) (v : BitVec k) (m : Word) (h : field lo k m = 0) : place lo v &&& m = 0 := by
  refine BitVec.eq_of_getLsbD_eq fun j hj => ?_
  have hb := congrArg (fun x : BitVec k => x.getLsbD (j - lo)) h
  by_cases hl : j < lo
  · simp [place, hl]
  · by_cases hk : j - lo < k
    · simp [field, hk, show lo + (j - lo) = j by omega] at hb
      simp [place, hb]
    · simp [place, BitVec.getLsbD_of_ge v _ (Nat.not_lt.mp hk)]

theorem or_and (a b m : Word) : (a ||| b) &&& m = (a &&& m) ||| (b &&& m) := by
  ext j hj
  simp [Bool.and_or_distrib_right]

theorem place_zero {k : Nat} (lo : Nat) : place lo (0 : BitVec k) = 0#32 := by
  unfold place
  simp

/-- A word is its only field of 32 bits. -/
theorem word_eq_place (w : Word) : w = place 0 (field 0 32 w) := by
  refine BitVec.eq_of_getLsbD_eq fun j hj => ?_
  simp [place, field, hj]

/-- A placed field is its lower and its upper part, each in its place: cut a word into the fields of a format with this. -/
theorem place_field_split {a b : Nat} (lo : Nat) (w : Word) :
    place lo (field lo (a + b) w) = place lo (field lo a w) ||| place (lo + a) (field (lo + a) b w) := by
  refine BitVec.eq_of_getLsbD_eq fun j hj => ?_
  simp only [place, field, BitVec.getLsbD_shiftLeft, BitVec.getLsbD_setWidth, BitVec.getLsbD_or,
    BitVec.getLsbD_extractLsb']
  by_cases h1 : j < lo
  · simp [h1, show j < lo + a by omega]
  · by_cases h2 : j < lo + a
    · simp [hj, h1, h2, show j - lo < a by omega, show j - lo < a + b by omega]
    · rw [show lo + (j - lo) = lo + a + (j - (lo + a)) by omega]
      by_cases h3 : j < lo + a + b
      · simp [hj, h1, h2, show ¬j - lo < a by omega, show j - lo < a + b by omega, show j - (lo + a) < b by omega,
          show j - lo < 32 by omega, show j - (lo + a) < 32 by omega]
      · simp [hj, h1, h2, show ¬j - lo < a by omega, show ¬j - lo < a + b by omega, show ¬j - (lo + a) < b by omega]

/-! ## The checks and the rows of the decoder -/

theorem checkReserved_eq_ok {w : Word} {clear : Bool} {i j : Instr} (h : checkReserved w clear i = .ok j) :
    clear = true ∧ i = j := by
  cases clear <;> simp_all [checkReserved]

theorem checkIndexed_eq_ok {w : Word} {clear inRange : Bool} {i j : Instr}
    (h : checkIndexed w clear inRange i = .ok j) : clear = true ∧ inRange = true ∧ i = j := by
  cases clear <;> cases inRange <;> simp_all [checkIndexed]

theorem decodeFor_cfgcar {n : Nat} {w : Word} (h : opcode w = 1) : decodeFor n w = decodeCfgcar w := by simp [decodeFor, h]
theorem decodeFor_cfgmax {n : Nat} {w : Word} (h : opcode w = 2) : decodeFor n w = decodeCfgmax w := by simp [decodeFor, h]
theorem decodeFor_cfgdt {n : Nat} {w : Word} (h : opcode w = 3) : decodeFor n w = decodeCfgdt n w := by simp [decodeFor, h]
theorem decodeFor_cfgflt {n : Nat} {w : Word} (h : opcode w = 4) : decodeFor n w = decodeCfgflt w := by simp [decodeFor, h]
theorem decodeFor_start {n : Nat} {w : Word} (h : opcode w = 5) : decodeFor n w = decodeNone w .start := by
  simp [decodeFor, h]
theorem decodeFor_stop {n : Nat} {w : Word} (h : opcode w = 6) : decodeFor n w = decodeNone w .stop := by
  simp [decodeFor, h]
theorem decodeFor_wrduty {n : Nat} {w : Word} (h : opcode w = 7) : decodeFor n w = decodeWrduty n w := by
  simp [decodeFor, h]
theorem decodeFor_rdduty {n : Nat} {w : Word} (h : opcode w = 8) : decodeFor n w = decodeRdduty n w := by
  simp [decodeFor, h]
theorem decodeFor_fire {n : Nat} {w : Word} (h : opcode w = 9) : decodeFor n w = decodeFire w := by simp [decodeFor, h]
theorem decodeFor_clrflt {n : Nat} {w : Word} (h : opcode w = 10) : decodeFor n w = decodeNone w .clrflt := by
  simp [decodeFor, h]
theorem decodeFor_status {n : Nat} {w : Word} (h : opcode w = 11) : decodeFor n w = decodeNone w .status := by
  simp [decodeFor, h]
theorem decodeFor_rdflags {n : Nat} {w : Word} (h : opcode w = 12) : decodeFor n w = decodeNone w .rdflags := by
  simp [decodeFor, h]
theorem decodeFor_ack {n : Nat} {w : Word} (h : opcode w = 13) : decodeFor n w = decodeAck w := by simp [decodeFor, h]
theorem decodeFor_unassigned {n : Nat} {w : Word} (h : opcode w = 0 ∨ opcode w = 14 ∨ opcode w = 15) :
    decodeFor n w = .error (.unassignedOpcode (opcode w)) := by
  rcases h with h | h | h <;> simp [decodeFor, h]

/-- The sixteen values of the opcode field, for a case split. -/
theorem opcode_cases (w : Word) : (opcode w).toNat < 16 := (opcode w).isLt

@[simp] theorem dirOfBit_dirBit (d : Direction) : dirOfBit (dirBit d) = d := by cases d <;> rfl
@[simp] theorem modeOfBit_modeBit (m : SlopeMode) : modeOfBit (modeBit m) = m := by cases m <;> rfl
@[simp] theorem restartOfBit_restartBit (r : RestartMode) : restartOfBit (restartBit r) = r := by cases r <;> rfl
@[simp] theorem levelOfBit_levelBit (l : Level) : levelOfBit (levelBit l) = l := by cases l <;> rfl
@[simp] theorem selOfBit_selBit (e : DutySel) : selOfBit (selBit e) = e := by cases e <;> rfl

theorem bit_cases (b : BitVec 1) : b = 0 ∨ b = 1 := by
  have h := b.isLt
  rcases Nat.lt_or_ge b.toNat 1 with h0 | h1
  · exact .inl (BitVec.eq_of_toNat_eq (by simpa using h0))
  · exact .inr (BitVec.eq_of_toNat_eq (by simp; omega))

@[simp] theorem dirBit_dirOfBit (b : BitVec 1) : dirBit (dirOfBit b) = b := by rcases bit_cases b with rfl | rfl <;> rfl
@[simp] theorem modeBit_modeOfBit (b : BitVec 1) : modeBit (modeOfBit b) = b := by rcases bit_cases b with rfl | rfl <;> rfl
@[simp] theorem restartBit_restartOfBit (b : BitVec 1) : restartBit (restartOfBit b) = b := by
  rcases bit_cases b with rfl | rfl <;> rfl
@[simp] theorem levelBit_levelOfBit (b : BitVec 1) : levelBit (levelOfBit b) = b := by
  rcases bit_cases b with rfl | rfl <;> rfl
@[simp] theorem selBit_selOfBit (b : BitVec 1) : selBit (selOfBit b) = b := by rcases bit_cases b with rfl | rfl <;> rfl

end Sys2Proof
end

