-- ==== Sys2Proof/Laws/State.lean ====
section
/-! SUPPORT. What each named update writes and what it leaves alone: one lemma per field for the updates of the whole state,
one frame lemma for each update of the hardware record. -/

namespace Sys2Proof.Machine

variable {n : Nat}

/-! ## The whole state -/

@[simp] theorem answer_pwm (c : Pwm n) (r : Option Word) (s : State n) : (s.answer c r).pwm = c := rfl
@[simp] theorem answer_inputs (c : Pwm n) (r : Option Word) (s : State n) :
    (s.answer c r).inputs = s.inputs := rfl
@[simp] theorem answer_response (c : Pwm n) (r : Option Word) (s : State n) :
    (s.answer c r).response = r := rfl
@[simp] theorem withInputs_pwm (xs : List Stimulus) (s : State n) : (s.withInputs xs).pwm = s.pwm := rfl
@[simp] theorem withInputs_inputs (xs : List Stimulus) (s : State n) : (s.withInputs xs).inputs = xs := rfl
@[simp] theorem withInputs_response (xs : List Stimulus) (s : State n) : (s.withInputs xs).response = s.response := rfl
@[simp] theorem withInputs_self (s : State n) : s.withInputs s.inputs = s := rfl
@[simp] theorem resetFor_pwm : (State.resetFor n).pwm = Pwm.reset n := rfl
@[simp] theorem resetFor_inputs : (State.resetFor n).inputs = [] := rfl
@[simp] theorem resetFor_response : (State.resetFor n).response = none := rfl
@[simp] theorem reset_pwm : State.reset.pwm = Pwm.reset Config.numChannels := rfl
@[simp] theorem reset_inputs : State.reset.inputs = [] := rfl
@[simp] theorem reset_response : State.reset.response = none := rfl
@[simp] theorem presentWord_pwm (w : Word) (s : State n) : (presentWord w s).pwm = s.pwm := rfl
@[simp] theorem presentWord_inputs (w : Word) (s : State n) : (presentWord w s).inputs = .cmd w :: s.inputs := rfl
@[simp] theorem presentWord_response (w : Word) (s : State n) : (presentWord w s).response = s.response := rfl

/-! ## Writes of one kind of register -/

@[simp] theorem writePending_pending (i : Fin n) (v : Ticks) (c : Pwm n) :
    (writePending i v c).pending = c.pending.set i v := rfl

@[simp] theorem writePending_frame (i : Fin n) (v : Ticks) (c : Pwm n) :
    (writePending i v c).period = c.period ∧ (writePending i v c).direction = c.direction ∧
    (writePending i v c).mode = c.mode ∧ (writePending i v c).div = c.div ∧
    (writePending i v c).enabled = c.enabled ∧ (writePending i v c).cnt = c.cnt ∧
    (writePending i v c).phase = c.phase ∧ (writePending i v c).presc = c.presc ∧
    (writePending i v c).maxDuty = c.maxDuty ∧ (writePending i v c).active = c.active ∧
    (writePending i v c).raw = c.raw ∧ (writePending i v c).dtLow = c.dtLow ∧
    (writePending i v c).dtHigh = c.dtHigh ∧ (writePending i v c).dtCnt = c.dtCnt ∧
    (writePending i v c).fstate = c.fstate ∧ (writePending i v c).force = c.force ∧
    (writePending i v c).restart = c.restart ∧ (writePending i v c).safe = c.safe ∧
    (writePending i v c).evmask = c.evmask ∧ (writePending i v c).matchFlag = c.matchFlag ∧
    (writePending i v c).ovf = c.ovf ∧ (writePending i v c).faultif = c.faultif ∧
    (writePending i v c).cfgerr = c.cfgerr := by
  refine ⟨rfl, rfl, rfl, rfl, rfl, rfl, rfl, rfl, rfl, rfl, rfl, rfl, rfl, rfl, rfl, rfl, rfl, rfl, rfl, rfl, rfl, rfl, rfl⟩

@[simp] theorem writeDeadTimes_dtLow (p : Fin n) (l h : DeadTicks) (c : Pwm n) :
    (writeDeadTimes p l h c).dtLow = c.dtLow.set p l := rfl
@[simp] theorem writeDeadTimes_dtHigh (p : Fin n) (l h : DeadTicks) (c : Pwm n) :
    (writeDeadTimes p l h c).dtHigh = c.dtHigh.set p h := rfl

@[simp] theorem exceptionWrites_configurationError (c : Pwm n) :
    exceptionWrites .configurationError c = { c with cfgerr := true } := rfl
@[simp] theorem exceptionWrites_illegalCommand (c : Pwm n) : exceptionWrites .illegalCommand c = c := rfl

/-! ## The parts of a tick -/

/-- `Advance()` writes `cnt` and `phase` and nothing else (R82). -/
theorem advance_writes (c : Pwm n) :
    (advance c).1 = { c with cnt := (advance c).1.cnt, phase := (advance c).1.phase } := by
  unfold advance advanceSingleDown advanceSingleUp advanceDualDown advanceDualUp
  split <;> (split_ifs <;> rfl)

/-- The Fault Monitor's part of a boundary writes `fstate` and `force` and nothing else (R128). -/
theorem boundaryFault_writes (c : Pwm n) :
    boundaryFault c =
      { c with
        fstate := if c.restart = .cycleByCycle then .armed else c.fstate
        force := if c.restart = .cycleByCycle ∨ c.fstate = .armed then false else c.force } := by
  unfold boundaryFault rearm release
  cases hf : c.fstate <;> cases hr : c.restart <;> cases c <;> simp_all

/-- `Boundary()` promotes, sets `ovf` and runs the Fault Monitor's part (R85). -/
theorem boundary_writes (c : Pwm n) :
    boundary c =
      { c with
        active := c.pending
        ovf := true
        fstate := if c.restart = .cycleByCycle then .armed else c.fstate
        force := if c.restart = .cycleByCycle ∨ c.fstate = .armed then false else c.force } := by
  unfold boundary setOvf promote
  rw [boundaryFault_writes]

@[simp] theorem matchAll_writes (c : Pwm n) :
    matchAll c = { c with matchFlag := Vector.ofFn fun i => c.matchFlag[i] || matchHit c i } := rfl

@[simp] theorem compareAndInsert_writes (c : Pwm n) :
    compareAndInsert c =
      { c with
        dtCnt := Vector.ofFn fun p => deadTimeNext c p (compareResult c p)
        raw := Vector.ofFn (compareResult c) } := rfl

end Sys2Proof.Machine
end

