-- ==== Sys2Proof/Laws/Ops.lean ====
section
/-! SUPPORT. One lemma per shared operation: everything it can do when it answers a next state, for later proofs to cite. -/

namespace Sys2Proof.Machine

variable {n : Nat}

/-! ## Answers -/

@[simp] theorem errorWord_configurationError : errorWord .configurationError = 0x90000000#32 := by decide
@[simp] theorem errorWord_illegalCommand : errorWord .illegalCommand = 0xA0000000#32 := by decide

theorem respond_eq_next {d : Ticks} {c : Pwm n} {s t : State n} (h : respond d c s = .next t) :
    t.pwm = c ∧ t.inputs = s.inputs ∧ t.response = some (okWord d) := by
  cases h; exact ⟨rfl, rfl, rfl⟩

theorem raiseConfigurationError_eq_next {s t : State n} (h : raiseConfigurationError s = .next t) :
    t.pwm = { s.pwm with cfgerr := true } ∧ t.inputs = s.inputs ∧ t.response = some 0x90000000#32 := by
  cases h; exact ⟨rfl, rfl, congrArg some errorWord_configurationError⟩

theorem raiseIllegalCommand_eq_next {s t : State n} (h : raiseIllegalCommand s = .next t) :
    t.pwm = s.pwm ∧ t.inputs = s.inputs ∧ t.response = some 0xA0000000#32 := by
  cases h; exact ⟨rfl, rfl, congrArg some errorWord_illegalCommand⟩

/-! ## Channels and indices -/

theorem anyChannel_iff (cond : Fin n → Bool) : anyChannel cond = true ↔ ∃ i, cond i = true := by
  simp [anyChannel]

theorem channelOf_of_lt {idx : Index} (h : idx.toNat < n) : channelOf n idx = some ⟨idx.toNat, h⟩ := by
  simp [channelOf, h]

theorem channelOf_of_ge {idx : Index} (h : n ≤ idx.toNat) : channelOf n idx = none := by
  simp [channelOf, Nat.not_lt.mpr h]

theorem eventChannelOf_of_lt {idx : Index} (h : idx.toNat < 8) : eventChannelOf idx = some ⟨idx.toNat, h⟩ := by
  simp [eventChannelOf, h]

theorem eventChannelOf_of_ge {idx : Index} (h : 8 ≤ idx.toNat) : eventChannelOf idx = none := by
  simp [eventChannelOf, h]

theorem cfgcarRejected_iff (period : Ticks) (div : Divisor) (c : Pwm n) :
    cfgcarRejected period div c = true ↔
      c.enabled = true ∨ period = 0 ∨ div = 0 ∨ period.toNat ≤ c.maxDuty.toNat
        ∨ ∃ p : Fin n, period.toNat ≤ (c.dtLow[p]).toNat + (c.dtHigh[p]).toNat := by
  simp only [cfgcarRejected, Bool.or_eq_true, decide_eq_true_eq, anyChannel_iff, BitVec.le_def, or_assoc]
  exact Iff.rfl

theorem cfgmaxRejected_iff (value : Ticks) (c : Pwm n) :
    cfgmaxRejected value c = true ↔
      c.enabled = true ∨ c.period.toNat ≤ value.toNat
        ∨ ∃ i : Fin n, value.toNat < (c.active[i]).toNat ∨ value.toNat < (c.pending[i]).toNat := by
  simp only [cfgmaxRejected, Bool.or_eq_true, decide_eq_true_eq, anyChannel_iff, BitVec.le_def, BitVec.lt_def, or_assoc]

theorem cfgdtRejected_iff (low high : DeadTicks) (c : Pwm n) :
    cfgdtRejected low high c = true ↔ c.enabled = true ∨ c.period.toNat ≤ low.toNat + high.toNat := by
  simp [cfgdtRejected]

/-! ## The Fault Monitor and the clock -/

/-- Everything a trigger can do: latch, or nothing (R126). -/
theorem trigger_cases (dest : BitVec 8) (ch : Nat) (c : Pwm n) :
    (maskedEvent dest ch c = true ∧ c.fstate = .armed ∧
      trigger dest ch c = { c with fstate := .faulted, force := true, faultif := true }) ∨
    ((maskedEvent dest ch c = false ∨ c.fstate = .faulted) ∧ trigger dest ch c = c) := by
  unfold trigger
  by_cases hm : maskedEvent dest ch c = true
  · cases hf : c.fstate
    · exact .inl ⟨hm, rfl, by simp [hm]⟩
    · exact .inr ⟨.inr rfl, by simp⟩
  · exact .inr ⟨.inl (by simpa using hm), by simp [hm]⟩

/-- Everything a `CLK` step can do to the hardware (R80). -/
theorem clk_cases (c : Pwm n) :
    (c.enabled = false ∧ clk c = c) ∨
    (ticksNext c = true ∧ c.enabled = true ∧ clk c = tick { c with presc := 0 }) ∨
    (c.enabled = true ∧ ticksNext c = false ∧ c.presc.toNat + 1 < c.div.toNat ∧ clk c = { c with presc := c.presc + 1 }) := by
  unfold clk ticksNext
  cases he : c.enabled
  · exact .inl ⟨rfl, by simp⟩
  · by_cases hd : c.div.toNat ≤ c.presc.toNat + 1
    · exact .inr (.inl ⟨by simp [hd], rfl, by simp [hd]⟩)
    · exact .inr (.inr ⟨rfl, by simp [Nat.not_le.mp hd], Nat.not_le.mp hd, by simp [hd]⟩)

/-- The destination mask routes every Event Channel to this monitor (R6). -/
theorem destMask_routes (ch : Nat) (h : ch < 8) : Config.destMask.getLsbD ch = true := by
  unfold Config.destMask
  interval_cases ch <;> rfl

/-! ## Steps -/

/-- Everything a step of any build can do: nothing, or what its stimulus' agent does (R7). -/
theorem nextStep_cases {run : Executor n} {dest : BitVec 8} {s t : State n} (h : nextStep run dest s = .next t) :
    (s.inputs = [] ∧ t = s.answer s.pwm none) ∨
    (∃ w rest, s.inputs = .cmd w :: rest ∧ commandStep run w (s.withInputs rest) = .next t) ∨
    (∃ rest, s.inputs = .clk :: rest ∧ t = (s.withInputs rest).answer (clk s.pwm) none) ∨
    (∃ ch rest, s.inputs = .event ch :: rest ∧ t = (s.withInputs rest).answer (trigger dest ch.val s.pwm) none) ∨
    (∃ rest, s.inputs = .reset :: rest ∧ t = (s.withInputs rest).answer (Pwm.reset n) none) := by
  unfold nextStep at h
  split at h
  · next hi => cases h; exact .inl ⟨hi, rfl⟩
  · next x rest hi =>
    cases x with
    | cmd w => exact .inr (.inl ⟨w, rest, hi, h⟩)
    | clk => cases h; exact .inr (.inr (.inl ⟨rest, hi, rfl⟩))
    | event ch => cases h; exact .inr (.inr (.inr (.inl ⟨ch, rest, hi, rfl⟩)))
    | reset => cases h; exact .inr (.inr (.inr (.inr ⟨rest, hi, rfl⟩)))

/-- Everything a step of the machine can do. -/
theorem step_cases {s t : State} (h : step s = .next t) :
    (s.inputs = [] ∧ t = s.answer s.pwm none) ∨
    (∃ w rest, s.inputs = .cmd w :: rest ∧ commandStep exec w (s.withInputs rest) = .next t) ∨
    (∃ rest, s.inputs = .clk :: rest ∧ t = (s.withInputs rest).answer (clk s.pwm) none) ∨
    (∃ ch rest, s.inputs = .event ch :: rest ∧
      t = (s.withInputs rest).answer (trigger Config.destMask ch.val s.pwm) none) ∨
    (∃ rest, s.inputs = .reset :: rest ∧ t = (s.withInputs rest).answer (Pwm.reset Config.numChannels) none) :=
  nextStep_cases h

/-- A command step is a decoded command's meaning, or IllegalCommand (R55). -/
theorem commandStep_cases {run : Executor n} {w : Word} {s t : State n} (h : commandStep run w s = .next t) :
    (∃ i, decodeFor n w = .ok i ∧ run i s = .next t) ∨
    (∃ e, decodeFor n w = .error e ∧ raiseIllegalCommand s = .next t) := by
  unfold commandStep at h
  split at h
  · next i hd => exact .inl ⟨i, hd, h⟩
  · next e hd => exact .inr ⟨e, hd, h⟩

/-- No command of any build touches the stimuli. -/
theorem execIn_inputs {b : Config.Build} {i : Instr} {s t : State b.numChannels} (h : execIn b i s = .next t) :
    t.inputs = s.inputs := by
  cases i <;>
    simp only [execIn, execCfgcar, execCfgmax, execCfgdt, execCfgflt, execStart, execStop, execWrduty, execRdduty, fireFor,
      execClrflt, execStatus, execRdflags, execAck] at h <;>
    (repeat' split at h) <;>
    first
      | exact (respond_eq_next h).2.1
      | exact (raiseConfigurationError_eq_next h).2.1
      | exact (raiseIllegalCommand_eq_next h).2.1

/-- No command touches the stimuli. -/
theorem exec_inputs {i : Instr} {s t : State} (h : exec i s = .next t) : t.inputs = s.inputs := by
  have agree : exec i s = execIn Config.defaultBuild i s := by cases i <;> rfl
  exact execIn_inputs (b := Config.defaultBuild) (agree ▸ h)

/-! ## The reference host -/

@[simp] theorem goOn_next (p : HostPhase n) (s : State n) : goOn p (.next s) = .next { machine := s, host := p } := rfl

theorem goOn_eq_next {p : HostPhase n} {r : Result n} {z : System n} (h : goOn p r = .next z) :
    r = .next z.machine ∧ z.host = p := by
  cases r with
  | next s => cases h; exact ⟨rfl, rfl⟩
  | fault e => cases h
  | refused e => cases h

theorem rampValue_of_pos {maxd : Nat} (h : 0 < maxd) (a inc : Nat) : rampValue maxd a inc = some ((a + inc) % maxd) := by
  simp [rampValue, Nat.ne_of_gt h]

/-- The other agents' move is the machine's step; a host at work is not disturbed by it (R157, R161). -/
theorem worldMove_eq_next {run : Executor n} {dest : BitVec 8} {y z : System n} (h : worldMove run dest y = .next z) :
    nextStep run dest y.machine = .next z.machine ∧ z.host = phaseAfter y.machine y.host := goOn_eq_next h

theorem phaseAfter_of_working {s : State n} {p : HostPhase n} (h : p ≠ .waiting) : phaseAfter s p = p := by
  simp [phaseAfter, h]

/-- A waiting host is the dispatcher's end (R157). -/
theorem dispatch_of_waiting {run : Executor n} {h : RampHost n} (fuel : Nat) {y : System n} (hw : y.host = .waiting) :
    dispatch run h fuel y = some (.next y) := by
  cases fuel with
  | zero => rfl
  | succ k => simp [dispatch, hw]

/-- A host at work makes its next move and goes on (R157). -/
theorem dispatch_of_move {run : Executor n} {h : RampHost n} (fuel : Nat) {y z : System n} (hw : y.host ≠ .waiting)
    (hm : hostMove run h none y = some (.next z)) : dispatch run h (fuel + 1) y = dispatch run h fuel z := by
  simp [dispatch, hw, hm]

end Sys2Proof.Machine
end

