-- ==== Sys2Proof/Laws/PerInstr.lean ====
section
/-! SUPPORT. A statement about every command as syntax, proved command by command. -/

namespace Sys2Proof.Laws.Encoding

open Sys2Proof

/-- The encoding of a command agrees with its row of the opcode map of R54: under the row's mask it is the row's match
value, so its opcode is right and every reserved bit is 0. -/
def Statement (i : Instr) : Prop := encode i &&& tableMask i = tableMatch i

theorem cfgcar (period : Ticks) (dir : Direction) (mode : SlopeMode) (div : Divisor) :
    Statement (.cfgcar period dir mode div) := by
  simp only [Statement, encode, payloadOf, tableMask, tableMatch, opcodeOf, or_and]
  rw [place_and_eq_zero _ (dirBit dir) _ (by decide), place_and_eq_zero _ (modeBit mode) _ (by decide),
    place_and_eq_zero _ div _ (by decide), place_and_eq_zero _ period _ (by decide)]
  decide
theorem cfgmax (value : Ticks) : Statement (.cfgmax value) := by
  simp only [Statement, encode, payloadOf, tableMask, tableMatch, opcodeOf, or_and]
  rw [place_and_eq_zero _ value _ (by decide)]
  decide
theorem cfgdt (idx : Index) (low high : DeadTicks) : Statement (.cfgdt idx low high) := by
  simp only [Statement, encode, payloadOf, tableMask, tableMatch, opcodeOf, or_and]
  rw [place_and_eq_zero _ idx _ (by decide), place_and_eq_zero _ low _ (by decide),
    place_and_eq_zero _ high _ (by decide)]
  decide
theorem cfgflt (restart : RestartMode) (safe : Level) (mask : BitVec 8) : Statement (.cfgflt restart safe mask) := by
  simp only [Statement, encode, payloadOf, tableMask, tableMatch, opcodeOf, or_and]
  rw [place_and_eq_zero _ (restartBit restart) _ (by decide), place_and_eq_zero _ (levelBit safe) _ (by decide),
    place_and_eq_zero _ mask _ (by decide)]
  decide
theorem start : Statement .start := by unfold Statement; decide
theorem stop : Statement .stop := by unfold Statement; decide
theorem wrduty (idx : Index) (value : Ticks) : Statement (.wrduty idx value) := by
  simp only [Statement, encode, payloadOf, tableMask, tableMatch, opcodeOf, or_and]
  rw [place_and_eq_zero _ idx _ (by decide), place_and_eq_zero _ value _ (by decide)]
  decide
theorem rdduty (idx : Index) (sel : DutySel) : Statement (.rdduty idx sel) := by
  simp only [Statement, encode, payloadOf, tableMask, tableMatch, opcodeOf, or_and]
  rw [place_and_eq_zero _ idx _ (by decide), place_and_eq_zero _ (selBit sel) _ (by decide)]
  decide
theorem fire (idx : Index) : Statement (.fire idx) := by
  simp only [Statement, encode, payloadOf, tableMask, tableMatch, opcodeOf, or_and]
  rw [place_and_eq_zero _ idx _ (by decide)]
  decide
theorem clrflt : Statement .clrflt := by unfold Statement; decide
theorem status : Statement .status := by unfold Statement; decide
theorem rdflags : Statement .rdflags := by unfold Statement; decide
theorem ack (mask : BitVec 10) : Statement (.ack mask) := by
  simp only [Statement, encode, payloadOf, tableMask, tableMatch, opcodeOf, or_and]
  rw [place_and_eq_zero _ mask _ (by decide)]
  decide

end Sys2Proof.Laws.Encoding
end

