-- ==== Sys2Proof/Tests/Slice0.lean ====
section
/-! SUPPORT. The model's own tests: the well-formedness smoke test, words written out from 30_encoding.md R51 and R54, a few single
steps whose results are worked out from the rules (each names its source), and for every statement with hypotheses a state
and operands that meet them (`witness_…`, named after the statement). -/

namespace Sys2Proof.Tests

open Sys2Proof Sys2Proof.Machine Sys2Proof.Claims

/-! ## Small states -/

/-- Stopped, period 10, dual threshold values chosen so that every check has a boundary nearby. -/
def stopped : Pwm Config.numChannels :=
  { Pwm.reset Config.numChannels with
    period := 10, cnt := 10, div := 2, maxDuty := 8
    active := #v[3, 0, 8, 1], pending := #v[4, 0, 8, 1], dtLow := #v[1, 0, 0, 0], dtHigh := #v[2, 0, 0, 0] }

/-- The same, running. -/
def running : Pwm Config.numChannels := { stopped with enabled := true }

/-- Running, one clock before a boundary tick. -/
def lastClock : Pwm Config.numChannels :=
  { running with cnt := 0, presc := 1, raw := #v[true, false, true, true] }

/-- Running and Faulted under latched restart, the pins forced high. -/
def faulted : Pwm Config.numChannels :=
  { running with fstate := .faulted, force := true, safe := .high, evmask := 1, faultif := true }

/-- Armed with Event Channels 0 and 7 masked in. -/
def armed : Pwm Config.numChannels := { running with evmask := 0x81 }

/-- A state with `xs` waiting. -/
def waiting (c : Pwm Config.numChannels) (xs : List Stimulus) : State := { pwm := c, inputs := xs, response := none }

/-- The hardware and the response after one step. -/
def after (c : Pwm Config.numChannels) (x : Stimulus) : Option (Pwm Config.numChannels × Option Word) :=
  match step (waiting c [x]) with
  | .next t => some (t.pwm, t.response)
  | .fault _ => none
  | .refused _ => none

/-- The response of a command word. -/
def answers (c : Pwm Config.numChannels) (w : Word) : Option Word := (after c (.cmd w)).bind (·.2)

/-! ## Well-formedness: an ill-formed term for each check is refused (R55 step 3) -/

theorem test_wf_refuses_absent_pair : (Instr.cfgdt 4 0 0).wf = false := by decide
theorem test_wf_refuses_absent_channel_written : (Instr.wrduty 4 0).wf = false := by decide
theorem test_wf_refuses_absent_channel_read : (Instr.rdduty 15 .active).wf = false := by decide
theorem test_wf_refuses_absent_event_channel : (Instr.fire 8).wf = false := by decide
theorem test_wf_accepts_last_indexes :
    (Instr.cfgdt 3 0 0).wf = true ∧ (Instr.wrduty 3 0).wf = true ∧ (Instr.rdduty 3 .pending).wf = true ∧
      (Instr.fire 7).wf = true := by decide

/-! ## Decoding: every command's word, opcode, fields and reserved bits written out from R51 and R54 -/

theorem test_decode_cfgcar :
    decode 0b0001_0_0_0000000001_0000001111101000 = .ok (.cfgcar 1000 .down .single 1) ∧
    decode 0b0001_1_1_0000000010_0000000000000100 = .ok (.cfgcar 4 .up .dual 2) ∧
    decode 0b0001_1_0_1111111111_0000000000000001 = .ok (.cfgcar 1 .up .single 1023) := by decide
theorem test_decode_cfgmax : decode 0b0010_000000000000_0000001111011110 = .ok (.cfgmax 990) := by decide
theorem test_decode_cfgdt : decode 0b0011_0001_00000000_00000011_00000101 = .ok (.cfgdt 1 3 5) := by decide
theorem test_decode_cfgflt :
    decode 0b0100_1_0_000000000000000000_00000100 = .ok (.cfgflt .cycleByCycle .low 4) ∧
    decode 0b0100_0_1_000000000000000000_11111111 = .ok (.cfgflt .latched .high 0xFF) := by decide
theorem test_decode_start : decode 0b0101_0000000000000000000000000000 = .ok .start := by decide
theorem test_decode_stop : decode 0b0110_0000000000000000000000000000 = .ok .stop := by decide
theorem test_decode_wrduty : decode 0b0111_0011_00000000_0000001111011111 = .ok (.wrduty 3 991) := by decide
theorem test_decode_rdduty :
    decode 0b1000_0010_0000000_1_0000000000000000 = .ok (.rdduty 2 .pending) ∧
    decode 0b1000_0000_0000000_0_0000000000000000 = .ok (.rdduty 0 .active) := by decide
theorem test_decode_fire : decode 0b1001_0111_000000000000000000000000 = .ok (.fire 7) := by decide
theorem test_decode_clrflt : decode 0b1010_0000000000000000000000000000 = .ok .clrflt := by decide
theorem test_decode_status : decode 0b1011_0000000000000000000000000000 = .ok .status := by decide
theorem test_decode_rdflags : decode 0b1100_0000000000000000000000000000 = .ok .rdflags := by decide
theorem test_decode_ack : decode 0b1101_000000000000000000_1100001111 = .ok (.ack 0x30F) := by decide

/-- The illegal words of 95_test_vectors.md section 2.1, and one reserved bit of every format that has some. -/
theorem test_decode_refuses :
    decode 0x00000000 = .error (.unassignedOpcode 0) ∧ decode 0xE0000000 = .error (.unassignedOpcode 14) ∧
    decode 0xFFFFFFFF = .error (.unassignedOpcode 15) ∧ decode 0x20010000 = .error (.reservedBits 2) ∧
    decode 0x30800000 = .error (.reservedBits 3) ∧ decode 0x40000100 = .error (.reservedBits 4) ∧
    decode 0x50000001 = .error (.reservedBits 5) ∧ decode 0x70010000 = .error (.reservedBits 7) ∧
    decode 0x80020000 = .error (.reservedBits 8) ∧ decode 0x80000001 = .error (.reservedBits 8) ∧
    decode 0x90000001 = .error (.reservedBits 9) ∧ decode 0xD0000400 = .error (.reservedBits 13) := by decide

/-- Reserved bits are tested before the index (R55 steps 2 and 3). -/
theorem test_decode_order :
    decode 0x34000000 = .error (.indexOutOfRange 4) ∧ decode 0x34010000 = .error (.reservedBits 3) ∧
    decode 0x98000000 = .error (.indexOutOfRange 8) := by decide

theorem test_encode :
    encode (.cfgcar 1000 .down .single 1) = 0x100103E8 ∧ encode (.cfgflt .cycleByCycle .high 4) = 0x4C000004 ∧
    encode (.wrduty 3 991) = 0x730003DF ∧ encode (.rdduty 0 .pending) = 0x80010000 := by decide

theorem test_decodeTableWord :
    decodeTableWord 32 0x730003DF = some (.wrduty 3 991) ∧ decodeTableWord 32 0x34000000 = none := by decide

/-- The bytes of a word, lowest bits first (R41). -/
theorem test_decodeBytes :
    decodeBytes [0xDF, 0x03, 0x00, 0x73, 0x55] = .ok (.wrduty 3 991, [0x55]) ∧ decodeBytes [0, 0, 0] = .error .truncated := by
  decide

/-! ## One step of each command -/

/-- R70: each cause alone is rejected, and the smallest period above them is accepted. -/
theorem test_cfgcar_causes :
    answers running (encode (.cfgcar 20 .up .single 1)) = some 0x90000000#32 ∧
    answers stopped (encode (.cfgcar 0 .up .single 1)) = some 0x90000000#32 ∧
    answers stopped (encode (.cfgcar 20 .up .single 0)) = some 0x90000000#32 ∧
    answers stopped (encode (.cfgcar 8 .up .single 1)) = some 0x90000000#32 ∧
    answers { stopped with maxDuty := 2 } (encode (.cfgcar 3 .up .single 1)) = some 0x90000000#32 ∧
    answers stopped (encode (.cfgcar 9 .up .single 1)) = some 0x00000000#32 := by decide

/-- R70: UP loads 0 and sets `raw` of every channel with a non-zero active value. -/
theorem test_cfgcar_reload :
    (after stopped (.cmd (encode (.cfgcar 20 .up .dual 1)))).map (fun r => (r.1.cnt, r.1.raw, r.1.period)) =
      some (0, #v[true, false, true, true], 20) := by decide

/-- R71: the bounds on both sides. -/
theorem test_cfgmax_bounds :
    answers stopped 0x20000009 = some 0x00000000#32 ∧ answers stopped 0x2000000A = some 0x90000000#32 ∧
    answers stopped 0x20000008 = some 0x00000000#32 ∧ answers stopped 0x20000007 = some 0x90000000#32 := by decide

/-- R105's example: with period 100, 50 and 50 is refused, 50 and 49 is taken. -/
theorem test_cfgdt_bounds :
    answers { stopped with period := 100 } 0x30003232 = some 0x90000000#32 ∧
    answers { stopped with period := 100 } 0x30003231 = some 0x00000000#32 := by decide

/-- R105: a frozen `dt_cnt` is left as it is. -/
theorem test_cfgdt_writes :
    (after { stopped with dtCnt := #v[2, 0, 0, 0] } (.cmd 0x30000000)).map (fun r => (r.1.dtLow, r.1.dtHigh, r.1.dtCnt)) =
      some (#v[0, 0, 0, 0], #v[0, 0, 0, 0], #v[2, 0, 0, 0]) := by decide

/-- R120 and R130: the pins follow a new safe level at once. -/
theorem test_cfgflt_moves_forced_pins :
    (after { faulted with enabled := false } (.cmd 0x40000002)).map (fun r => (r.1.evmask, r.1.fstate, pinH r.1 0)) =
      some (2, .faulted, .low) := by decide

/-- R72: refused while `cfgerr` is set. -/
theorem test_start :
    answers { stopped with cfgerr := true } 0x50000000 = some 0x90000000#32 ∧
    (after stopped (.cmd 0x50000000)).map (fun r => r.1) = some running := by decide

theorem test_stop : (after running (.cmd 0x60000000)).map (fun r => r.1) = some stopped := by decide

/-- R90: the maximum itself is accepted, one more is not. -/
theorem test_wrduty_bounds :
    (after running (.cmd 0x73000008)).map (fun r => (r.1.pending, r.2)) = some (#v[4, 0, 8, 8], some 0x00000000#32) ∧
    (after running (.cmd 0x73000009)).map (fun r => (r.1.pending, r.1.cfgerr)) = some (#v[4, 0, 8, 1], true) := by decide

theorem test_rdduty :
    answers running 0x80000000 = some 0x00000003#32 ∧ answers running 0x80010000 = some 0x00000004#32 := by decide

/-- R123's example: the masked channel latches, the other does nothing, both answer 0. -/
theorem test_fire :
    (after armed (.cmd 0x97000000)).map (fun r => (r.1.fstate, r.1.force, r.1.faultif, r.2)) =
      some (.faulted, true, true, some 0x00000000#32) ∧
    after armed (.cmd 0x91000000) = some (armed, some 0x00000000#32) := by decide

/-- R124: `force` and `faultif` stay. -/
theorem test_clrflt :
    (after faulted (.cmd 0xA0000000)).map (fun r => (r.1.fstate, r.1.force, r.1.faultif)) = some (.armed, true, true) := by
  decide

theorem test_status : answers faulted 0xB0000000 = some 0x00000001#32 ∧ answers armed 0xB0000000 = some 0x00000000#32 := by
  decide

/-- R140's third example word. -/
theorem test_rdflags :
    answers { faulted with matchFlag := #v[true, true, true, true], ovf := true } 0xC0000000 = some 0x00003B0F#32 := by decide

/-- R141: only the masked flags; bits of absent channels do nothing. -/
theorem test_ack :
    (after { faulted with matchFlag := #v[true, true, true, true], ovf := true } (.cmd 0xD00001F1)).map
      (fun r => (r.1.matchFlag, r.1.ovf, r.1.faultif, r.1.fstate)) =
      some (#v[false, true, true, true], false, true, .faulted) := by decide

/-! ## Hardware steps -/

/-- R80: the second clock of `div` = 2 holds the tick. -/
theorem test_clk_prescales :
    (after running .clk).map (fun r => (r.1.cnt, r.1.presc)) = some (10, 1) ∧
    (after { running with presc := 1 } .clk).map (fun r => (r.1.cnt, r.1.presc)) = some (9, 0) := by decide

/-- R81, R85, R92, R94, R107: a boundary tick promotes, sets `ovf`, and compares with the promoted values. -/
theorem test_boundary_tick :
    (after lastClock .clk).map (fun r => (r.1.cnt, r.1.active, r.1.ovf, r.1.raw, r.1.dtCnt)) =
      some (10, #v[4, 0, 8, 1], true, #v[false, false, false, false], #v[1, 0, 0, 0]) := by decide

/-- R82's table for DUAL DOWN with period 3: 3 2 1 0 1 2, six ticks a cycle. -/
theorem test_dual_down :
    (List.range 8).map (fun k => ((afterTicks k { Pwm.reset 1 with period := 3, cnt := 3, mode := .dual }).cnt)) =
      [3, 2, 1, 0, 1, 2, 3, 2] := by decide

/-- R127 and R121: an event latches while stopped too. -/
theorem test_event : (after { armed with enabled := false } (.event 0)).map (fun r => (r.1.fstate, r.2)) = some (.faulted, none) := by
  decide

/-- R170: every field, from a Faulted running state. -/
theorem test_reset : (after faulted .reset).map (fun r => r.1) = some (Pwm.reset 4) := by decide

/-- Log entry 8: the run that breaks the second half of invariant 6 of R24. After `CFGCAR 3`, `CFGMAX 2`, `CFGDT 0, 0, 2`,
`WRDUTY 0, 1`, `START`, seven clocks and `STOP`, a `CFGDT 0, 0, 0` leaves `dt_cnt[0]` at 2. -/
theorem test_dead_count_above_its_dead_times :
    (match Host.Core.run Sys2Proof.core 14
        (resetWith ([.cmd 0x10010003, .cmd 0x20000002, .cmd 0x30000002, .cmd 0x70000001, .cmd 0x50000000] ++
          List.replicate 7 .clk ++ [.cmd 0x60000000, .cmd 0x30000000])) with
      | .next t => some (t.pwm.dtCnt[0], t.pwm.dtLow[0], t.pwm.dtHigh[0])
      | .fault _ => none
      | .refused _ => none) = some (2, 0, 0) := by decide

/-! ## Assembler text (R58, R59) -/

theorem test_assemble_lines :
    readScriptLine "WRDUTY 3, 991".toList = some (.command (.wrduty 3 991)) ∧
    readScriptLine "CLRFLT".toList = some (.command .clrflt) := by
  decide

/-! ## Witnesses: for every statement with hypotheses, a state and operands that meet them, clause by clause -/

theorem witness_DecodeOfEncode :
    (Instr.wrduty 3 0xFFFF).wfFor 4 = true ∧ (Instr.cfgdt 0 255 255).wfFor 1 = true ∧ (Instr.fire 7).wfFor 4 = true := by decide

theorem witness_EncodeOfDecode :
    decodeFor 4 0x730003DF = .ok (.wrduty 3 991) ∧ decodeFor 8 0x37000001 = .ok (.cfgdt 7 0 1) := by decide

theorem witness_IllegalWordsAreExactlyTheList :
    (waiting running [.cmd 0x34000000]).inputs = [.cmd 0x34000000] ∧ illegalWord 4 0x34000000 ∧ illegalWord 4 0x00000000 ∧
      illegalWord 4 0xE0000000 ∧ illegalWord 4 0xF0000000 ∧ illegalWord 4 0xD0000400 ∧ illegalWord 4 0x98000000 := by
  unfold illegalWord badIndex reservedMask
  decide

theorem witness_StepRunsDecodedCommand :
    (waiting stopped [.cmd 0x50000000]).inputs = [.cmd 0x50000000] ∧ decode 0x50000000 = .ok .start := by decide

theorem witness_PresentedWordRunsNext :
    decodeTableWord 32 0x50000000 = some .start ∧ decodeTableWord 32 0x730003DF = some (.wrduty 3 991) := by decide

theorem witness_ClkStepCountsOrTicks :
    (waiting running [.clk]).inputs = [.clk] ∧ stopped.enabled = false ∧
      ¬running.div.toNat ≤ running.presc.toNat + 1 ∧ lastClock.div.toNat ≤ lastClock.presc.toNat + 1 := by decide

theorem witness_EventStepTriggers :
    (waiting armed [.event 7]).inputs = [.event 7] ∧ armed.evmask.getLsbD 7 = true ∧ armed.fstate = .armed ∧
      armed.evmask.getLsbD 1 = false := by decide

theorem witness_ResetWritesEveryField_reset : (waiting faulted [.reset]).inputs = [.reset] := by decide

theorem witness_ResetWritesEveryField_others :
    ∃ t, step (waiting { faulted with cfgerr := true } [.clk]) = .next t ∧ ¬resetNext (waiting faulted [.clk]) ∧
      ¬clearNext (waiting faulted [.clk]) ∧ faulted.fstate = .faulted ∧ faulted.restart = .latched :=
  ⟨_, rfl, by simp [resetNext, waiting], by simp [clearNext, waiting], by decide, by decide⟩

theorem witness_ResponseForms :
    ∃ t, step (waiting running [.cmd 0x70000005]) = .next t ∧ ¬cmdNext 8 (waiting running [.cmd 0x70000005]) ∧
      ¬cmdNext 11 (waiting running [.cmd 0x70000005]) ∧ ¬cmdNext 12 (waiting running [.cmd 0x70000005]) :=
  ⟨_, rfl, by simp [cmdNext, waiting], by simp [cmdNext, waiting], by simp [cmdNext, waiting]⟩

theorem witness_CfgcarConfiguresOrRejects :
    running.enabled = true ∧ (8 : Ticks).toNat ≤ stopped.maxDuty.toNat ∧
      (∃ p : Fin 4, (3 : Ticks).toNat ≤ (stopped.dtLow[p]).toNat + (stopped.dtHigh[p]).toNat) ∧
      stopped.enabled = false ∧ (9 : Ticks) ≠ 0 ∧ (1 : Divisor) ≠ 0 ∧ stopped.maxDuty.toNat < (9 : Ticks).toNat ∧
      ∀ p : Fin 4, (stopped.dtLow[p]).toNat + (stopped.dtHigh[p]).toNat < (9 : Ticks).toNat := by decide

theorem witness_CfgmaxSetsOrRejects :
    running.enabled = true ∧ stopped.period.toNat ≤ (10 : Ticks).toNat ∧
      (∃ i : Fin 4, (7 : Ticks).toNat < (stopped.active[i]).toNat) ∧
      (∃ i : Fin 4, (7 : Ticks).toNat < (stopped.pending[i]).toNat) ∧
      stopped.enabled = false ∧ (9 : Ticks).toNat < stopped.period.toNat ∧
      ∀ i : Fin 4, (stopped.active[i]).toNat ≤ (8 : Ticks).toNat ∧ (stopped.pending[i]).toNat ≤ (8 : Ticks).toNat := by decide

theorem witness_CfgdtSetsOrRejects :
    Config.numChannels ≤ (4 : Index).toNat ∧ (3 : Index).toNat < Config.numChannels ∧ running.enabled = true ∧
      stopped.period.toNat ≤ (5 : DeadTicks).toNat + (5 : DeadTicks).toNat ∧
      stopped.enabled = false ∧ (5 : DeadTicks).toNat + (4 : DeadTicks).toNat < stopped.period.toNat := by decide

theorem witness_CfgfltSetsOrRejects : running.enabled = true ∧ stopped.enabled = false := by decide

theorem witness_StartAndStopWriteEnabled :
    ({ stopped with cfgerr := true } : Pwm 4).cfgerr = true ∧ stopped.cfgerr = false := by decide

theorem witness_WrdutyWritesPendingOrRejects :
    Config.numChannels ≤ (4 : Index).toNat ∧ (3 : Index).toNat < Config.numChannels ∧
      running.maxDuty.toNat < (9 : Ticks).toNat ∧ (8 : Ticks).toNat ≤ running.maxDuty.toNat := by decide

theorem witness_RddutyReads : Config.numChannels ≤ (4 : Index).toNat ∧ (3 : Index).toNat < Config.numChannels := by decide

theorem witness_FireLatchesOrDoesNothing :
    8 ≤ (8 : Index).toNat ∧ (7 : Index).toNat < 8 ∧ armed.evmask.getLsbD (7 : Index).toNat = true ∧ armed.fstate = .armed ∧
      armed.evmask.getLsbD (1 : Index).toNat = false ∧ faulted.fstate = .faulted := by decide

theorem witness_ClrfltArmsAndStatusReads : armed.fstate = .armed ∧ faulted.fstate = .faulted := by decide

theorem witness_IllFormedCommandIsIllegal : (Instr.fire 8).wf = false ∧ (Instr.cfgdt 4 0 0).wf = false := by decide

theorem witness_ConfigurationErrorCausesComplete :
    (Instr.wrduty 3 9).wf = true ∧ configErrorCause (.wrduty 3 9) running ∧ ¬configErrorCause (.wrduty 3 8) running ∧
      configErrorCause (.cfgmax 7) stopped ∧ ¬configErrorCause (.cfgmax 8) stopped ∧
      configErrorCause (.cfgdt 3 5 5) stopped ∧ ¬configErrorCause (.cfgdt 3 5 4) stopped ∧
      configErrorCause (.cfgcar 8 .up .dual 1) stopped ∧ ¬configErrorCause (.cfgcar 9 .up .dual 1) stopped ∧
      configErrorCause (.cfgflt .latched .low 0) running ∧ ¬configErrorCause (.cfgflt .latched .low 0) stopped ∧
      configErrorCause .start { stopped with cfgerr := true } ∧ ¬configErrorCause .start stopped ∧
      ¬configErrorCause .stop running := by
  simp only [configErrorCause]
  decide

theorem witness_CommandsIdempotent : ∃ t, exec (.fire 0) (waiting armed []) = .next t := ⟨_, rfl⟩

theorem witness_RegisterViewsShowTheCommand :
    (∃ t, exec (.cfgcar 9 .up .dual 1) (waiting stopped []) = .next t ∧ t.response = some 0x00000000#32) ∧
    (∃ t, exec (.cfgmax 9) (waiting stopped []) = .next t ∧ t.response = some 0x00000000#32) ∧
    (∃ t, exec (.cfgdt 3 5 4) (waiting stopped []) = .next t ∧ t.response = some 0x00000000#32) ∧
    (∃ t, exec (.cfgflt .cycleByCycle .high 255) (waiting stopped []) = .next t ∧ t.response = some 0x00000000#32) ∧
    (∃ t, exec (.wrduty 3 8) (waiting running []) = .next t ∧ t.response = some 0x00000000#32) :=
  ⟨⟨_, rfl, by decide⟩, ⟨_, rfl, by decide⟩, ⟨_, rfl, by decide⟩, ⟨_, rfl, by decide⟩, ⟨_, rfl, by decide⟩⟩

/-! ### The carrier -/

theorem invariant_running : Invariant running := by constructor <;> decide

/-- Dual slope, on the way back. -/
def secondSlope : Pwm Config.numChannels :=
  { running with mode := .dual, cnt := 5, phase := true, raw := #v[false, false, true, false] }

theorem witness_CounterNeverWraps : Invariant running ∧ Invariant lastClock ∧ Invariant secondSlope :=
  ⟨invariant_running, by constructor <;> decide, by constructor <;> decide⟩

theorem witness_CounterSequence : 1 ≤ running.period.toNat ∧ AtCycleStart running := by
  unfold AtCycleStart
  decide

theorem witness_BoundaryEveryCycleLength :
    (∃ t, exec (.cfgcar 9 .up .dual 1) (waiting stopped []) = .next t ∧ t.response = some 0x00000000#32) ∧
    1 ≤ running.period.toNat ∧ AtCycleStart running :=
  ⟨⟨_, rfl, by decide⟩, witness_CounterSequence⟩

theorem witness_FirstTickAfterPrescaler :
    running.enabled = true ∧ running.presc.toNat < running.div.toNat ∧ 1 < running.div.toNat - running.presc.toNat ∧
      stopped.enabled = false := by decide

theorem witness_DutyTicksPerCycle :
    (Invariant running ∧ AtCycleStart running) ∧
    (Invariant { running with mode := .dual } ∧ AtCycleStart { running with mode := .dual }) :=
  ⟨⟨invariant_running, witness_CounterSequence.2⟩, by constructor <;> decide, witness_CounterSequence.2⟩

theorem witness_OneMatchPerCycle :
    (Invariant running ∧ AtCycleStart running) ∧
    (Invariant { running with mode := .dual } ∧ AtCycleStart { running with mode := .dual }) := witness_DutyTicksPerCycle

/-! ### Double buffering -/

theorem boundary_lastClock : boundaryClk (waiting lastClock [.clk]) := ⟨⟨[], rfl⟩, by decide, by decide⟩

theorem witness_PromotionOnlyAtBoundary :
    (∃ t, step (waiting lastClock [.clk]) = .next t ∧ boundaryClk (waiting lastClock [.clk])) ∧
    (∃ t, step (waiting running [.reset]) = .next t ∧ resetNext (waiting running [.reset])) ∧
    (∃ t, step (waiting running [.clk]) = .next t ∧ ¬boundaryClk (waiting running [.clk]) ∧
      ¬resetNext (waiting running [.clk])) :=
  ⟨⟨_, rfl, boundary_lastClock⟩, ⟨_, rfl, [], rfl⟩,
    ⟨_, rfl, fun h => absurd h.2.1 (by decide), by simp [resetNext, waiting]⟩⟩

theorem witness_DoubleBufferingLaw_quiet :
    ∃ t, QuietRun (waiting running [.cmd 0x70000005, .clk]) t ∧ t.pwm.pending[0] = 5 :=
  ⟨_, .tail (.refl _) (by simp [boundaryClk, waiting]) (by simp [resetNext, waiting]) rfl, by decide⟩

theorem witness_DoubleBufferingLaw_boundary :
    ∃ u, boundaryClk (waiting lastClock [.clk]) ∧ step (waiting lastClock [.clk]) = .next u := ⟨_, boundary_lastClock, rfl⟩

theorem witness_DoubleBufferingLaw_lastWrite :
    (∃ t, LastWrite 0 (waiting running [.clk]) t none) ∧
    (∃ t, LastWrite 0 (waiting running [.reset]) t (some 0)) ∧
    (∃ t, LastWrite 0 (waiting running [.cmd 0x70000005]) t (some 5)) :=
  ⟨⟨_, .other (.refl _) rfl (by simp [resetNext, waiting]) (by simp [writesDuty, waiting])⟩,
    ⟨_, .reset (.refl _) rfl ⟨[], rfl⟩⟩, ⟨_, .write (.refl _) rfl ⟨[], rfl, by decide⟩⟩⟩

/-! ### Outputs and dead time -/

theorem witness_MutualExclusion :
    running.force = false ∧ ({ faulted with safe := .low } : Pwm 4).safe = .low ∧ faulted.force = true ∧
      faulted.safe = .high := by decide

theorem witness_OutputsAtStartStopCfgcar :
    (∃ t, exec .start (waiting stopped []) = .next t ∧ t.response = some 0x00000000#32 ∧
      (waiting stopped []).pwm.dtCnt[0] = 0) ∧
    (∃ t, exec .stop (waiting running []) = .next t) ∧
    (∃ t, exec (.cfgcar 9 .up .dual 1) (waiting stopped []) = .next t ∧ t.response = some 0x00000000#32) :=
  ⟨⟨_, rfl, by decide, by decide⟩, ⟨_, rfl⟩, ⟨_, rfl, by decide⟩⟩

theorem witness_GatedOutputsAndPins : faulted.force = true ∧ running.force = false := by decide

/-- The high side of pair 0 is about to be wanted: three ticks with `raw[0]` = 1 follow, and `dt_high[0]` is 2. -/
def beforeRise : Pwm Config.numChannels := { running with cnt := 3, raw := #v[false, false, true, false] }

theorem witness_DeadTimeLaw :
    beforeRise.enabled = true ∧ beforeRise.raw[0] ≠ true ∧
      (∀ j : Nat, j ≤ 2 → (afterTicks (j + 1) beforeRise).raw[0] = true) ∧
      1 < sideDeadTime true beforeRise 0 ∧ sideDeadTime true beforeRise 0 ≤ 2 := by decide

theorem witness_ActiveTicksOfRun :
    beforeRise.enabled = true ∧ beforeRise.raw[0] ≠ true ∧
      ∀ j : Nat, j < 3 → (afterTicks (j + 1) beforeRise).raw[0] = true := by decide

theorem witness_MinimumDeadTime :
    (tick beforeRise).raw[0] ≠ beforeRise.raw[0] ∧
      0 < min (beforeRise.dtLow[0]).toNat (beforeRise.dtHigh[0]).toNat := by decide

/-! ### The Fault Monitor -/

theorem witness_TriggerForEveryDestMask :
    (0x7F : BitVec 8).getLsbD 7 = false ∧ armed.evmask.getLsbD 1 = false ∧ faulted.fstate = .faulted ∧
      (0x80 : BitVec 8).getLsbD 7 = true ∧ armed.evmask.getLsbD 7 = true ∧ armed.fstate = .armed := by decide

theorem witness_FaultMonitorTransitionTable :
    (∃ t, step (waiting armed [.event 7]) = .next t ∧ armed.fstate = .armed ∧ t.pwm.fstate = .faulted) ∧
    (∃ t, step (waiting faulted [.clk]) = .next t ∧ faulted.fstate = .faulted ∧ ¬isCmd 13 .clk) ∧
    (∃ t, step (waiting running [.clk]) = .next t ∧ t.pwm.fstate = .armed) :=
  ⟨⟨_, rfl, by decide, by decide⟩, ⟨_, rfl, by decide, by simp [isCmd]⟩, ⟨_, rfl, by decide⟩⟩

theorem witness_LatchLaw :
    faulted.fstate = .faulted ∧ faulted.force = true ∧ faulted.restart = .latched ∧
      ∃ t, LatchedRun (waiting faulted [.clk, .event 0]) t ∧ t.inputs = [.event 0] :=
  ⟨by decide, by decide, by decide, _,
    .tail (.refl _) (by simp [clearNext, waiting]) (by simp [resetNext, waiting]) rfl (by decide), by decide⟩

theorem witness_FaultStateDisturbsNothingElse :
    (waiting running [.clk]).inputs = (waiting faulted [.clk]).inputs ∧ sameButFault running faulted ∧
      (∃ t, step (waiting running [.clk]) = .next t) ∧ (∃ t, step (waiting faulted [.clk]) = .next t) ∧
      ¬cmdNext 11 (waiting running [.clk]) ∧ ¬cmdNext 12 (waiting running [.clk]) :=
  ⟨by decide, by unfold sameButFault; decide, ⟨_, rfl⟩, ⟨_, rfl⟩, by simp [cmdNext, waiting], by simp [cmdNext, waiting]⟩

/-! ### Flags, errors, invariants -/

theorem witness_FlagsSetOnlyByTheirEvents :
    (∃ t, step (waiting lastClock [.clk]) = .next t ∧ lastClock.ovf = false ∧ t.pwm.ovf = true) ∧
    (∃ t, step (waiting { running with cnt := 9, presc := 1 } [.clk]) = .next t ∧ running.matchFlag[2] = false ∧
      t.pwm.matchFlag[2] = true) ∧
    (∃ t, step (waiting armed [.event 7]) = .next t ∧ armed.faultif = false ∧ t.pwm.faultif = true) ∧
    (∃ t, step (waiting running [.cmd 0x73000009]) = .next t ∧ running.cfgerr = false ∧ t.pwm.cfgerr = true) :=
  ⟨⟨_, rfl, by decide, by decide⟩, ⟨_, rfl, by decide, by decide⟩, ⟨_, rfl, by decide, by decide⟩, ⟨_, rfl, by decide, by decide⟩⟩

/-- Every request line high. -/
def requesting : Pwm Config.numChannels := { faulted with matchFlag := #v[true, true, true, true], ovf := true }

theorem witness_RequestLinesHoldUntilAck :
    ∃ t, step (waiting requesting [.cmd 0xD000030F]) = .next t ∧ ¬resetNext (waiting requesting [.cmd 0xD000030F]) ∧
      (irqFault requesting = true ∧ irqFault t.pwm = false) ∧ (irqOvf requesting = true ∧ irqOvf t.pwm = false) ∧
      (irqMatch requesting 3 = true ∧ irqMatch t.pwm 3 = false) :=
  ⟨_, rfl, by simp [resetNext, waiting], by decide, by decide, by decide⟩

theorem witness_FieldsChangeOnlyByTheirWriters_clk :
    ∃ t, step (waiting running [.clk]) = .next t ∧ Stimulus.clk ≠ .reset ∧ ¬boundaryClk (waiting running [.clk]) ∧
      ¬tickClk (waiting running [.clk]) ∧ (∀ op, ¬isCmd op .clk) ∧ (∀ ch, Stimulus.clk ≠ .event ch) ∧
      t.response ≠ some 0x90000000#32 :=
  ⟨_, rfl, by decide, fun h => absurd h.2.1 (by decide), fun h => absurd h.2 (by decide), by simp [isCmd], by simp, by decide⟩

theorem witness_FieldsChangeOnlyByTheirWriters_event :
    ∃ t, step (waiting armed [.event 0]) = .next t ∧ Stimulus.event 0 ≠ .reset ∧ Stimulus.event 0 ≠ .clk ∧
      (∀ op, ¬isCmd op (.event 0)) ∧ (∀ w, Stimulus.event 0 ≠ .cmd w) :=
  ⟨_, rfl, by decide, by decide, by simp [isCmd], by simp⟩

theorem witness_ConfigurationErrorFatalToStartup :
    ({ stopped with cfgerr := true } : Pwm 4).cfgerr = true ∧ stopped.enabled = false ∧
      Stimulus.reset ∉ (waiting { stopped with cfgerr := true } [.cmd 0x50000000]).inputs ∧
      ∃ t, Reaches (waiting { stopped with cfgerr := true } [.cmd 0x50000000]) t ∧ t.response = some 0x90000000#32 :=
  ⟨by decide, by decide, by decide, _, .tail (.refl _) rfl, by decide⟩

theorem witness_StepKeepsInvariant : Invariant running ∧ ∃ t, step (waiting running [.clk]) = .next t :=
  ⟨invariant_running, _, rfl⟩

theorem witness_RangeLaw : ∃ t, Reaches (resetWith [.cmd 0x100103E8]) t ∧ t.pwm.period = 1000 :=
  ⟨_, .tail (.refl _) rfl, by decide⟩

theorem witness_DeadCountBoundedWhenReachable : ∃ t, Reaches (resetWith [.cmd 0x30000002]) t ∧ t.pwm.dtHigh[0] = 2 :=
  ⟨_, .tail (.refl _) rfl, by decide⟩

theorem witness_DeadCountBoundKeptButByCfgdt :
    DeadCountBounded running ∧ (∃ t, step (waiting running [.clk]) = .next t) ∧ ¬cmdNext 3 (waiting running [.clk]) ∧
      ∃ t, step (waiting running [.cmd 0x30000000]) = .next t ∧ t.response ≠ some 0x00000000#32 :=
  ⟨by unfold DeadCountBounded; decide, ⟨_, rfl⟩, by simp [cmdNext, waiting], _, rfl, by decide⟩

/-! ### Whole runs -/

theorem witness_BootSequenceStarts :
    (1 : Divisor) ≠ 0 ∧ (990 : Ticks).toNat < (1000 : Ticks).toNat ∧
      (∀ p : Fin 4, (#v[(3 : DeadTicks), 0, 255, 1][p]).toNat + (#v[(5 : DeadTicks), 0, 255, 1][p]).toNat < (1000 : Ticks).toNat) ∧
      ∀ i : Fin 4, (#v[(990 : Ticks), 0, 1, 500][i]).toNat ≤ (990 : Ticks).toNat := by decide

theorem witness_RequestPriority :
    highestRequest requesting = some .fault ∧
      highestRequest { requesting with faultif := false, matchFlag := #v[false, true, true, false] } = some (.compareMatch 1) ∧
      highestRequest { running with ovf := true } = some .periodBoundary ∧ highestRequest running = none := by decide

/-- The ramp's host: modulus 8, an increment of 6 for every channel. -/
def rampHost : RampHost := { maxd := 8, inc := #v[6, 6, 6, 6] }

/-- A `WRDUTY` of channel 1 is none of channel 0. -/
theorem wrduty_one_ne_zero (v : Ticks) : (0x71000007 : Word) ≠ encode (.wrduty 0 v) := by
  intro h
  have := congrArg (field 24 4) h
  simp only [encode, payloadOf, opcodeOf, field_or] at this
  rw [field_place_above _ _ _ (by omega), field_place_same _ _ (by omega), field_place_below _ _ _ (by omega)] at this
  exact absurd this (by decide)

/-- Channel 0 of `lastClock` has the active value 3. Between the handler's first and second command another channel is written:
`(3 + 6) mod 8` = 1 is pending in the end. -/
theorem witness_RampLaw_done :
    0 < rampHost.maxd ∧ rampHost.maxd ≤ lastClock.maxDuty.toNat ∧
      ∃ t, RampRun rampHost 0 (waiting lastClock [.cmd 0x71000007]) 1 .done t ∧ t.pwm.pending[0] = 1 := by
  have read : RampRun rampHost 0 (waiting lastClock [.cmd 0x71000007]) 0 (.read 3)
      { waiting lastClock [.cmd 0x71000007] with response := some 3 } :=
    RampRun.read (t := { waiting lastClock [.cmd 0x71000007] with response := some 3 }) .start rfl
  have other : RampRun rampHost 0 (waiting lastClock [.cmd 0x71000007]) 0 (.read 3)
      { waiting { lastClock with pending := #v[4, 7, 8, 1] } [] with response := some 0 } := by
    refine .between read (fun h => ?_) (fun h => ?_) rfl (fun v h => ?_) (by decide)
    · obtain ⟨⟨_, h⟩, _⟩ := h; simp [waiting] at h
    · obtain ⟨_, h⟩ := h; simp [waiting] at h
    · obtain ⟨_, h, _⟩ := h
      exact wrduty_one_ne_zero v (Stimulus.cmd.inj (List.cons.inj h).1)
  exact ⟨by decide, by decide, _, .acknowledge (.write (v := 1) other (by decide) rfl) rfl, by decide⟩

/-- And after the boundary that follows an invocation its value is active. -/
theorem witness_RampLaw_waiting :
    ∃ t, RampRun rampHost 0 (waiting lastClock [.clk]) 1 .waiting t ∧ t.pwm.active[0] = 1 :=
  ⟨_, .boundary (.acknowledge (.write (v := 1) (.read .start rfl) (by decide) rfl) rfl) ⟨⟨[], rfl⟩, by decide, by decide⟩ rfl,
    by decide⟩

/-- A build of eight channels in which only Event Channel 7 reaches the monitor. -/
def eightChannels : Config.Build := { numChannels := 8, destMask := 0x80, legal := by decide }

/-- R6 and R126 in that build: channel 7 exists, an event that is not routed is dropped, a routed one latches. -/
theorem test_other_build :
    (∃ t, stepIn eightChannels ((State.resetFor 8).withInputs [.cmd 0x77000000]) = .next t ∧ t.response = some 0x00000000#32) ∧
    (∃ t, execIn eightChannels (.fire 0) { State.resetFor 8 with pwm := { Pwm.reset 8 with evmask := 0xFF } } = .next t ∧
      t.pwm.fstate = .armed) ∧
    (∃ t, execIn eightChannels (.fire 7) { State.resetFor 8 with pwm := { Pwm.reset 8 with evmask := 0xFF } } = .next t ∧
      t.pwm.fstate = .faulted) :=
  ⟨⟨_, rfl, by decide⟩, ⟨_, rfl, by decide⟩, ⟨_, rfl, by decide⟩⟩

theorem witness_DispatcherServesEveryRequest : 0 < rampHost.maxd ∧ rampHost.maxd ≤ requesting.maxDuty.toNat := by decide

/-- The host is in channel 3's handler, its value computed, when an event is about to latch a fault. -/
def interrupted : System :=
  { machine := waiting { armed with safe := .high, matchFlag := #v[false, false, false, true] } [.event 7]
    host := .inHandler (.rampWrite 3 7) }

theorem witness_DispatcherServesEveryRequest_event :
    interrupted.host = .inHandler (.rampWrite 3 7) ∧ interrupted.machine.inputs = [.event 7] ∧
      maskedEvent Config.defaultBuild.destMask 7 interrupted.machine.pwm = true ∧ interrupted.machine.pwm.fstate = .armed ∧
      ∃ z, worldMove (execIn Config.defaultBuild) Config.defaultBuild.destMask interrupted = .next z :=
  ⟨by decide, by decide, by decide, by decide, _, rfl⟩

theorem witness_DispatcherServesEveryRequest_fault : irqFault requesting = true := by decide

/-- R161: the fault is latched inside the handler (`faultif` set, pins forced), the handler ends first, and then the fault handler is
entered, acknowledges and lets the application read `STATUS`: Faulted. -/
theorem test_fault_inside_handler :
    (match systemRun exec Config.destMask rampHost
        [.world, .host none, .host none, .host none, .host none, .host (some 0xB0000000)] interrupted with
      | some (.next y) => some (y.host, y.machine.response, y.machine.pwm.faultif, pinL y.machine.pwm 0, y.machine.pwm.pending[3])
      | _ => none) = some (.inHandler .faultApplication, some 1#32, false, .high, 7) := by decide

/-- R157: after the boundary clock the host acknowledges `ovf`, and then the application reads the flags: only `enabled` is
left. -/
theorem test_reference_run :
    (match referenceRun exec Config.destMask rampHost 4 [some 0xC0000000] { machine := waiting lastClock [.clk], host := .waiting } with
      | some (.next y) => some (y.host, y.machine.response)
      | _ => none) = some (.waiting, some 0x00001000#32) := by decide

end Sys2Proof.Tests
end

section
/-! PROOFS. What a step does with the stimulus at the head of the list, as equations (00_scope.md R7): the converse reading of
`nextStep_cases` and `commandStep_cases`. -/

namespace Sys2Proof.Machine

variable {n : Nat}

/-- The stimulus at the head leaves the list and is taken by its agent (log entry 1). -/
theorem nextStep_of_inputs_cons {run : Executor n} {dest : BitVec 8} {s : State n} {x : Stimulus} {rest : List Stimulus}
    (hs : s.inputs = x :: rest) : nextStep run dest s = stimulusStep run dest x (s.withInputs rest) := by
  simp only [nextStep, hs]

/-- A word that decodes runs its command (R55). -/
theorem commandStep_of_decodeFor_ok {run : Executor n} {w : Word} {i : Instr} (hd : decodeFor n w = .ok i) (s : State n) :
    commandStep run w s = run i s := by
  simp only [commandStep, hd]

/-- The two rules together, for the step of any build. -/
theorem nextStep_of_command {run : Executor n} {dest : BitVec 8} {s : State n} {w : Word} {i : Instr} {rest : List Stimulus}
    (hs : s.inputs = .cmd w :: rest) (hd : decodeFor n w = .ok i) :
    nextStep run dest s = run i (s.withInputs rest) :=
  calc nextStep run dest s
    _ = commandStep run w (s.withInputs rest) := nextStep_of_inputs_cons hs
    _ = run i (s.withInputs rest) := commandStep_of_decodeFor_ok hd _

/-- Settles O6: the machine is the build with the stated values, and there the head's command runs on the state without it. -/
theorem stepRunsDecodedCommand : Obligations.StepRunsDecodedCommand := by
  intro s w rest i hs hd
  exact nextStep_of_command hs hd

end Sys2Proof.Machine
end
section
/-! PROOFS. What the decoder says about the opcode of a word, and which bits of a command word are its payload
(30_encoding.md R50, R51, R54). -/

namespace Sys2Proof

/-- The opcode of a word is one of the thirteen of R54, or unassigned. -/
theorem opcode_values (w : Word) :
    (opcode w = 0 ∨ opcode w = 14 ∨ opcode w = 15) ∨ opcode w = 1 ∨ opcode w = 2 ∨ opcode w = 3 ∨ opcode w = 4 ∨
      opcode w = 5 ∨ opcode w = 6 ∨ opcode w = 7 ∨ opcode w = 8 ∨ opcode w = 9 ∨ opcode w = 10 ∨ opcode w = 11 ∨
      opcode w = 12 ∨ opcode w = 13 := by
  generalize opcode w = op
  revert op
  decide

/-- A word that decodes has the opcode of its command (R54). -/
theorem opcode_of_decodeFor {n : Nat} {w : Word} {i : Instr} (h : decodeFor n w = .ok i) : opcode w = opcodeOf i := by
  rcases opcode_values w with op | op | op | op | op | op | op | op | op | op | op | op | op | op
  · rw [decodeFor_unassigned op] at h; cases h
  · rw [decodeFor_cfgcar op] at h; cases h; exact op
  · rw [decodeFor_cfgmax op] at h; obtain ⟨-, rfl⟩ := checkReserved_eq_ok h; exact op
  · rw [decodeFor_cfgdt op] at h; obtain ⟨-, -, rfl⟩ := checkIndexed_eq_ok h; exact op
  · rw [decodeFor_cfgflt op] at h; obtain ⟨-, rfl⟩ := checkReserved_eq_ok h; exact op
  · rw [decodeFor_start op] at h; obtain ⟨-, rfl⟩ := checkReserved_eq_ok h; exact op
  · rw [decodeFor_stop op] at h; obtain ⟨-, rfl⟩ := checkReserved_eq_ok h; exact op
  · rw [decodeFor_wrduty op] at h; obtain ⟨-, -, rfl⟩ := checkIndexed_eq_ok h; exact op
  · rw [decodeFor_rdduty op] at h; obtain ⟨-, -, rfl⟩ := checkIndexed_eq_ok h; exact op
  · rw [decodeFor_fire op] at h; obtain ⟨-, -, rfl⟩ := checkIndexed_eq_ok h; exact op
  · rw [decodeFor_clrflt op] at h; obtain ⟨-, rfl⟩ := checkReserved_eq_ok h; exact op
  · rw [decodeFor_status op] at h; obtain ⟨-, rfl⟩ := checkReserved_eq_ok h; exact op
  · rw [decodeFor_rdflags op] at h; obtain ⟨-, rfl⟩ := checkReserved_eq_ok h; exact op
  · rw [decodeFor_ack op] at h; obtain ⟨-, rfl⟩ := checkReserved_eq_ok h; exact op

/-- A placed value is kept by a mask whose field there is all ones: the companion of `place_and_eq_zero`. -/
theorem place_and_eq_self {k : Nat} (lo : Nat) (v : BitVec k) (m : Word) (h : field lo k m = BitVec.allOnes k) :
    place lo v &&& m = place lo v := by
  refine BitVec.eq_of_getLsbD_eq fun j hj => ?_
  have hb := congrArg (fun x : BitVec k => x.getLsbD (j - lo)) h
  by_cases hl : j < lo
  · simp [place, hl]
  · by_cases hk : j - lo < k
    · simp [field, hk, show lo + (j - lo) = j by omega] at hb
      simp [place, hb]
    · simp [place, BitVec.getLsbD_of_ge v _ (Nat.not_lt.mp hk)]

/-- The operands of every format lie in bits 27:0 (R51). -/
theorem payload_and_payload (i : Instr) : payloadOf i &&& 0x0FFFFFFF#32 = payloadOf i := by
  cases i with
  | cfgcar | cfgmax | cfgdt | cfgflt | wrduty | rdduty | fire | ack =>
    simp (disch := decide) only [payloadOf, or_and, place_and_eq_self]
  | start | stop | clrflt | status | rdflags => rfl

/-- Bits 27:0 of a command's word are its payload (R51). -/
theorem encode_and_payload (i : Instr) : encode i &&& 0x0FFFFFFF#32 = payloadOf i := by
  have hop : place 28 (opcodeOf i) &&& 0x0FFFFFFF#32 = 0 := place_and_eq_zero _ _ _ (by decide)
  rw [encode, or_and, hop, payload_and_payload]
  exact BitVec.zero_or

/-- Bits 15:0 of a `CFGDT` are its dead times (R51). -/
theorem encode_cfgdt_and_low (idx : Index) (low high : DeadTicks) :
    encode (.cfgdt idx low high) &&& 0x0000FFFF#32 = place 8 low ||| place 0 high := by
  simp (disch := decide) only [encode, payloadOf, or_and, place_and_eq_self, place_and_eq_zero]
  simp

/-- Bits 15:0 of a `WRDUTY` are its value (R51). -/
theorem encode_wrduty_and_low (idx : Index) (value : Ticks) :
    encode (.wrduty idx value) &&& 0x0000FFFF#32 = place 0 value := by
  simp (disch := decide) only [encode, payloadOf, or_and, place_and_eq_self, place_and_eq_zero]
  simp

end Sys2Proof
end

section
/-! PROOFS. Everything a step can do to the hardware, once: the command rows with their guards, then the four agents
(00_scope.md R7, 60_exceptions.md R150 to R152). The laws of 10_state.md go through these instead of through `step`. -/

namespace Sys2Proof.Machine

variable {n : Nat}

/-! ## What a command can do -/

/-- `Accepts dest c i c' d`: the command `i` raises nothing in the hardware state `c`, leaves it as `c'` and answers `d`. One
row per command, the guard of the command first. -/
inductive Accepts (dest : BitVec 8) (c : Pwm n) : Instr → Pwm n → Ticks → Prop where
  | cfgcar {period dir mode div} (guard : cfgcarRejected period div c = false) :
      Accepts dest c (.cfgcar period dir mode div) (loadCarrier period dir mode div c) 0
  | cfgmax {value} (guard : cfgmaxRejected value c = false) : Accepts dest c (.cfgmax value) { c with maxDuty := value } 0
  | cfgdt {idx low high} (p : Fin n) (index : p.val = idx.toNat) (guard : cfgdtRejected low high c = false) :
      Accepts dest c (.cfgdt idx low high) (writeDeadTimes p low high c) 0
  | cfgflt {restart safe mask} (guard : c.enabled = false) :
      Accepts dest c (.cfgflt restart safe mask) { c with restart := restart, safe := safe, evmask := mask } 0
  | start (guard : c.cfgerr = false) : Accepts dest c .start { c with enabled := true } 0
  | stop : Accepts dest c .stop { c with enabled := false } 0
  | wrduty {idx value} (p : Fin n) (index : p.val = idx.toNat) (guard : ¬c.maxDuty < value) :
      Accepts dest c (.wrduty idx value) (writePending p value c) 0
  | rdduty {idx sel} (p : Fin n) (index : p.val = idx.toNat) : Accepts dest c (.rdduty idx sel) c (readDuty sel p c)
  | fire {idx} (ch : Fin Config.numEventChannels) (index : ch.val = idx.toNat) :
      Accepts dest c (.fire idx) (trigger dest ch.val c) 0
  | clrflt : Accepts dest c .clrflt { c with fstate := .armed } 0
  | status : Accepts dest c .status c ((faultStateBit c.fstate).setWidth 16)
  | rdflags : Accepts dest c .rdflags c (flagWord c)
  | ack {mask} : Accepts dest c (.ack mask) (acknowledge mask c) 0

/-- `Answers dest c i c' r`: the command `i` leaves the hardware as `c'` and answers the word `r`, one of the three forms of
R53. -/
inductive Answers (dest : BitVec 8) (c : Pwm n) (i : Instr) : Pwm n → Word → Prop where
  | accepted {c' : Pwm n} {d : Ticks} (h : Accepts dest c i c' d) : Answers dest c i c' (okWord d)
  | rejected : Answers dest c i { c with cfgerr := true } 0x90000000#32
  | illegal : Answers dest c i c 0xA0000000#32

/-- The command `i` in the state `s` ends in a next state, as `Answers` says. -/
def AnswersIn (dest : BitVec 8) (i : Instr) (s : State n) (o : Result n) : Prop :=
  ∃ t r, o = .next t ∧ t.response = some r ∧ Answers dest s.pwm i t.pwm r

theorem answersIn_respond {dest : BitVec 8} {i : Instr} {s : State n} {c' : Pwm n} {d : Ticks}
    (h : Accepts dest s.pwm i c' d) : AnswersIn dest i s (respond d c' s) :=
  ⟨_, _, rfl, rfl, .accepted h⟩

theorem answersIn_raiseConfigurationError {dest : BitVec 8} {i : Instr} {s : State n} :
    AnswersIn dest i s (raiseConfigurationError s) :=
  ⟨_, _, rfl, rfl, errorWord_configurationError ▸ .rejected⟩

theorem answersIn_raiseIllegalCommand {dest : BitVec 8} {i : Instr} {s : State n} :
    AnswersIn dest i s (raiseIllegalCommand s) :=
  ⟨_, _, rfl, rfl, errorWord_illegalCommand ▸ .illegal⟩

/-- An `IDX` operand names its channel, or none. -/
theorem channelOf_cases (n : Nat) (idx : Index) :
    channelOf n idx = none ∨ ∃ p : Fin n, channelOf n idx = some p ∧ p.val = idx.toNat := by
  rcases Nat.lt_or_ge idx.toNat n with h | h
  · exact .inr ⟨_, channelOf_of_lt h, rfl⟩
  · exact .inl (channelOf_of_ge h)

theorem eventChannelOf_cases (idx : Index) :
    eventChannelOf idx = none ∨ ∃ ch, eventChannelOf idx = some ch ∧ ch.val = idx.toNat := by
  rcases Nat.lt_or_ge idx.toNat 8 with h | h
  · exact .inr ⟨_, eventChannelOf_of_lt h, rfl⟩
  · exact .inl (eventChannelOf_of_ge h)

/-- Every command of every build answers as its row says, raises ConfigurationError, or raises IllegalCommand (R53, R150). -/
theorem execIn_answersIn (b : Config.Build) (i : Instr) (s : State b.numChannels) :
    AnswersIn b.destMask i s (execIn b i s) := by
  cases i with
  | cfgcar period dir mode div =>
    simp only [execIn, execCfgcar]
    split
    · exact answersIn_raiseConfigurationError
    · next guard => exact answersIn_respond (.cfgcar (Bool.eq_false_of_not_eq_true guard))
  | cfgmax value =>
    simp only [execIn, execCfgmax]
    split
    · exact answersIn_raiseConfigurationError
    · next guard => exact answersIn_respond (.cfgmax (Bool.eq_false_of_not_eq_true guard))
  | cfgdt idx low high =>
    simp only [execIn, execCfgdt]
    rcases channelOf_cases b.numChannels idx with hp | ⟨p, hp, index⟩ <;> simp only [hp]
    · exact answersIn_raiseIllegalCommand
    · split
      · exact answersIn_raiseConfigurationError
      · next guard => exact answersIn_respond (.cfgdt p index (Bool.eq_false_of_not_eq_true guard))
  | cfgflt restart safe mask =>
    simp only [execIn, execCfgflt]
    split
    · exact answersIn_raiseConfigurationError
    · next guard => exact answersIn_respond (.cfgflt (Bool.eq_false_of_not_eq_true guard))
  | start =>
    simp only [execIn, execStart]
    split
    · exact answersIn_raiseConfigurationError
    · next guard => exact answersIn_respond (.start (Bool.eq_false_of_not_eq_true guard))
  | stop => exact answersIn_respond .stop
  | wrduty idx value =>
    simp only [execIn, execWrduty]
    rcases channelOf_cases b.numChannels idx with hp | ⟨p, hp, index⟩ <;> simp only [hp]
    · exact answersIn_raiseIllegalCommand
    · split
      · exact answersIn_raiseConfigurationError
      · next guard => exact answersIn_respond (.wrduty p index guard)
  | rdduty idx sel =>
    simp only [execIn, execRdduty]
    rcases channelOf_cases b.numChannels idx with hp | ⟨p, hp, index⟩ <;> simp only [hp]
    · exact answersIn_raiseIllegalCommand
    · exact answersIn_respond (.rdduty p index)
  | fire idx =>
    simp only [execIn, fireFor]
    rcases eventChannelOf_cases idx with hc | ⟨ch, hc, index⟩ <;> simp only [hc]
    · exact answersIn_raiseIllegalCommand
    · exact answersIn_respond (.fire ch index)
  | clrflt => exact answersIn_respond .clrflt
  | status => exact answersIn_respond .status
  | rdflags => exact answersIn_respond .rdflags
  | ack mask => exact answersIn_respond .ack

/-- The same as an inversion, for a command that is known to end in `t`. -/
theorem execIn_answers {b : Config.Build} {i : Instr} {s t : State b.numChannels} (h : execIn b i s = .next t) :
    ∃ r, t.response = some r ∧ Answers b.destMask s.pwm i t.pwm r := by
  obtain ⟨u, r, hu, hr, ha⟩ := execIn_answersIn b i s
  cases hu.symm.trans h
  exact ⟨r, hr, ha⟩

/-- The machine is the build with the stated values (log entry 4). -/
theorem exec_eq_execIn : exec = execIn Config.defaultBuild := by
  funext i s
  cases i <;> rfl

theorem exec_answers {i : Instr} {s t : State} (h : exec i s = .next t) :
    ∃ r, t.response = some r ∧ Answers Config.destMask s.pwm i t.pwm r :=
  execIn_answers (b := Config.defaultBuild) (exec_eq_execIn ▸ h)

/-- An answer of 0 says that the command was accepted: the two exception words are not 0. -/
theorem Answers.accepted_of_zero {dest : BitVec 8} {c c' : Pwm n} {i : Instr} {r : Word} (h : Answers dest c i c' r)
    (hr : r = 0x00000000#32) : ∃ d, Accepts dest c i c' d := by
  cases h with
  | accepted ha => exact ⟨_, ha⟩
  | rejected => exact absurd hr (by decide)
  | illegal => exact absurd hr (by decide)

/-- No command that raised nothing answers the word of ConfigurationError: `ERR` is 0 (R53). -/
theorem okWord_ne_configurationError (d : Ticks) : okWord d ≠ 0x90000000#32 := by
  intro h
  have hbit := congrArg (fun r : Word => r.getLsbD 31) h
  simp [okWord] at hbit

/-! ## What a step can do -/

/-- `HardwareStep dest c x c' r`: taking the stimulus `x` (`none` when nothing waits) takes the hardware from `c` to `c'`, with
the response `r` (R7). -/
inductive HardwareStep (dest : BitVec 8) (c : Pwm n) : Option Stimulus → Pwm n → Option Word → Prop where
  | idle : HardwareStep dest c none c none
  | command {w : Word} {i : Instr} {c' : Pwm n} {r : Word} (decoded : decodeFor n w = .ok i) (answer : Answers dest c i c' r) :
      HardwareStep dest c (some (.cmd w)) c' (some r)
  | noCommand {w : Word} : HardwareStep dest c (some (.cmd w)) c (some 0xA0000000#32)
  | clk : HardwareStep dest c (some .clk) (clk c) none
  | event (ch : Fin Config.numEventChannels) : HardwareStep dest c (some (.event ch)) (trigger dest ch.val c) none
  | reset : HardwareStep dest c (some .reset) (Pwm.reset n) none

theorem stepIn_hardware {b : Config.Build} {s t : State b.numChannels} (h : stepIn b s = .next t) :
    HardwareStep b.destMask s.pwm s.inputs.head? t.pwm t.response := by
  rcases nextStep_cases h with ⟨hs, rfl⟩ | ⟨w, rest, hs, hw⟩ | ⟨rest, hs, rfl⟩ | ⟨ch, rest, hs, rfl⟩ | ⟨rest, hs, rfl⟩ <;>
    rw [hs]
  · exact .idle
  · rcases commandStep_cases hw with ⟨i, hd, hi⟩ | ⟨e, -, he⟩
    · obtain ⟨r, hr, ha⟩ := execIn_answers hi
      rw [hr]
      exact .command hd ha
    · obtain ⟨hc, -, hr⟩ := raiseIllegalCommand_eq_next he
      rw [hc, hr]
      exact .noCommand
  · exact .clk
  · exact .event ch
  · exact .reset

theorem step_eq_stepIn : step = stepIn Config.defaultBuild := by
  funext s
  exact congrArg (fun run => nextStep run Config.destMask s) exec_eq_execIn

theorem step_hardware {s t : State} (h : step s = .next t) :
    HardwareStep Config.destMask s.pwm s.inputs.head? t.pwm t.response :=
  stepIn_hardware (b := Config.defaultBuild) (step_eq_stepIn ▸ h)

end Sys2Proof.Machine
end

section
/-! PROOFS. What a tick writes, as one equation over the state before it (40_carrier.md R81 to R85), and the range of the
counter it leaves (R82). -/

namespace Sys2Proof.Machine

variable {n : Nat}

/-! ## The four counter sequences -/

theorem advance_of_single_down {c : Pwm n} (hm : c.mode = .single) (hd : c.direction = .down) :
    advance c = advanceSingleDown c := by simp only [advance, hm, hd]

theorem advance_of_single_up {c : Pwm n} (hm : c.mode = .single) (hd : c.direction = .up) :
    advance c = advanceSingleUp c := by simp only [advance, hm, hd]

theorem advance_of_dual_down {c : Pwm n} (hm : c.mode = .dual) (hd : c.direction = .down) :
    advance c = advanceDualDown c := by simp only [advance, hm, hd]

theorem advance_of_dual_up {c : Pwm n} (hm : c.mode = .dual) (hd : c.direction = .up) :
    advance c = advanceDualUp c := by simp only [advance, hm, hd]

/-! ## The writes of a tick -/

/-- The duty values a tick compares with: the promoted ones at a boundary (R93). -/
def tickActive (c : Pwm n) : Vector Ticks n := if boundaryNext c then c.pending else c.active

/-- The comparison result of a tick (R92). -/
def tickRaw (c : Pwm n) (i : Fin n) : Bool := decide ((advance c).1.cnt < (tickActive c)[i])

/-- Parts 1 and 2 of a tick (R81). -/
theorem advanceAndPromote_writes (c : Pwm n) :
    advanceAndPromote c =
      { c with
        cnt := (advance c).1.cnt
        phase := (advance c).1.phase
        active := tickActive c
        ovf := c.ovf || boundaryNext c
        fstate := if boundaryNext c = true ∧ c.restart = .cycleByCycle then .armed else c.fstate
        force := if boundaryNext c = true ∧ (c.restart = .cycleByCycle ∨ c.fstate = .armed) then false else c.force } := by
  unfold advanceAndPromote tickActive
  rw [boundary_writes, advance_writes]
  cases boundaryNext c <;> simp

/-- The five parts of a tick together (R81): the whole state it leaves, in terms of the state it finds. -/
theorem tick_writes (c : Pwm n) :
    tick c =
      { c with
        cnt := (advance c).1.cnt
        phase := (advance c).1.phase
        active := tickActive c
        ovf := c.ovf || boundaryNext c
        fstate := if boundaryNext c = true ∧ c.restart = .cycleByCycle then .armed else c.fstate
        force := if boundaryNext c = true ∧ (c.restart = .cycleByCycle ∨ c.fstate = .armed) then false else c.force
        matchFlag := Vector.ofFn fun i =>
          c.matchFlag[i] || (decide ((advance c).1.cnt = (tickActive c)[i]) && !(advance c).1.phase)
        dtCnt := Vector.ofFn fun p => deadTimeNext c p (tickRaw c p)
        raw := Vector.ofFn (tickRaw c) } := by
  unfold tick
  rw [advanceAndPromote_writes]
  rfl

/-- The count does not look at the prescaler. -/
theorem advance_presc (v : Divisor) (c : Pwm n) :
    advance { c with presc := v } = ({ (advance c).1 with presc := v }, (advance c).2) := by
  obtain ⟨period, direction, mode⟩ := c
  cases mode <;> cases direction
  case single.down => simp only [advance, advanceSingleDown]; split_ifs <;> rfl
  case single.up => simp only [advance, advanceSingleUp]; split_ifs <;> rfl
  case dual.down => simp only [advance, advanceDualDown]; split_ifs <;> rfl
  case dual.up => simp only [advance, advanceDualUp]; split_ifs <;> rfl

theorem boundaryNext_presc (v : Divisor) (c : Pwm n) : boundaryNext { c with presc := v } = boundaryNext c := by
  simp only [boundaryNext, advance_presc]

theorem tickActive_presc (v : Divisor) (c : Pwm n) : tickActive { c with presc := v } = tickActive c := by
  simp only [tickActive, boundaryNext_presc]

theorem tickRaw_presc (v : Divisor) (c : Pwm n) : tickRaw { c with presc := v } = tickRaw c := by
  funext i
  simp only [tickRaw, tickActive_presc, advance_presc]

/-- A tick does not look at the prescaler either, and leaves it alone (R80, R81). -/
theorem tick_presc (v : Divisor) (c : Pwm n) : tick { c with presc := v } = { tick c with presc := v } := by
  simp only [tick_writes, advance_presc, boundaryNext_presc, tickActive_presc, tickRaw_presc]
  rfl

/-- A dead-time counter is reloaded with one of the dead times, or does not rise (R107). -/
theorem deadTimeNext_cases (c : Pwm n) (p : Fin n) (r : Bool) :
    deadTimeNext c p r = c.dtHigh[p] ∨ deadTimeNext c p r = c.dtLow[p] ∨ (deadTimeNext c p r).toNat ≤ (c.dtCnt[p]).toNat := by
  unfold deadTimeNext
  split
  · split
    · exact .inl rfl
    · exact .inr (.inl rfl)
  · split
    · next hpos => exact .inr (.inr (by bv_omega))
    · exact .inr (.inr (Nat.le_refl _))

/-! ## The range of the counter (R82, R24 invariants 2 and 8) -/

/-- `cnt` and `phase` are where the invariants 2 and 8 of R24 want them, for this period and mode. -/
structure CounterInRange (mode : SlopeMode) (period cnt : Ticks) (phase : Bool) : Prop where
  cnt_le : cnt.toNat ≤ period.toNat
  single_phase : mode = .single → phase = false
  second_slope : mode = .dual → phase = true → 0 < cnt.toNat ∧ cnt.toNat < period.toNat

theorem Invariant.counterInRange {c : Pwm n} (h : Invariant c) : CounterInRange c.mode c.period c.cnt c.phase :=
  { h with }

/-- One count of the carrier stays in range, in each of the four sequences of R82. -/
theorem advance_counterInRange {c : Pwm n} (h : CounterInRange c.mode c.period c.cnt c.phase) (hp : 1 ≤ c.period.toNat) :
    CounterInRange c.mode c.period (advance c).1.cnt (advance c).1.phase := by
  obtain ⟨hle, hsingle, hdual⟩ := h
  cases hm : c.mode <;> cases hd : c.direction
  · rw [advance_of_single_down hm hd]
    unfold advanceSingleDown
    split_ifs with h0
    · exact ⟨Nat.le_refl _, fun _ => hsingle hm, nofun⟩
    · exact ⟨by dsimp only; bv_omega, fun _ => hsingle hm, nofun⟩
  · rw [advance_of_single_up hm hd]
    unfold advanceSingleUp
    split_ifs with h0
    · exact ⟨Nat.zero_le _, fun _ => hsingle hm, nofun⟩
    · exact ⟨by dsimp only; bv_omega, fun _ => hsingle hm, nofun⟩
  · rw [advance_of_dual_down hm hd]
    unfold advanceDualDown
    split_ifs with first last
    · exact ⟨by dsimp only; bv_omega, nofun, fun _ hphase => absurd (first.1 ▸ hphase) nofun⟩
    · exact ⟨by dsimp only; bv_omega, nofun, nofun⟩
    · have hlt : c.cnt.toNat < c.period.toNat := by
        cases hphase : c.phase
        · have h0 : ¬0 < c.cnt := fun h => first ⟨hphase, h⟩
          bv_omega
        · exact (hdual hm hphase).2
      exact ⟨by dsimp only; bv_omega, nofun, fun _ _ => ⟨by dsimp only; bv_omega, by dsimp only; bv_omega⟩⟩
  · rw [advance_of_dual_up hm hd]
    unfold advanceDualUp
    split_ifs with first last
    · exact ⟨by dsimp only; bv_omega, nofun, fun _ hphase => absurd (first.1 ▸ hphase) nofun⟩
    · exact ⟨by dsimp only; bv_omega, nofun, nofun⟩
    · have hpos : 0 < c.cnt.toNat := by
        cases hphase : c.phase
        · have h0 : ¬c.cnt < c.period := fun h => first ⟨hphase, h⟩
          bv_omega
        · exact (hdual hm hphase).1
      exact ⟨by dsimp only; bv_omega, nofun, fun _ _ => ⟨by dsimp only; bv_omega, by dsimp only; bv_omega⟩⟩

end Sys2Proof.Machine
end

section
/-! PROOFS. The invariants of 10_state.md R24: every reset state has them, every step of every build keeps all but the second
half of invariant 6, and what does and what does not hold of that half (log entry 8). -/

namespace Sys2Proof.Machine

variable {n : Nat}

/-! ## The reset state (R171) -/

theorem reset_invariant (n : Nat) : Invariant (Pwm.reset n) := by
  constructor <;> simp [Pwm.reset]

theorem reset_deadCountBounded (n : Nat) : DeadCountBounded (Pwm.reset n) := by
  intro p
  simp [Pwm.reset]

/-- Settles O52: the reset state of `n` channels has the invariants for every `n`. -/
theorem invariantAtReset : Obligations.InvariantAtReset :=
  ⟨⟨reset_invariant _, reset_deadCountBounded _⟩, fun _ => ⟨reset_invariant _, reset_deadCountBounded _⟩⟩

/-! ## The hardware's own steps -/

/-- A fault turns the override on in the same step (R126), so invariant 7 stays. -/
theorem trigger_invariant (dest : BitVec 8) (ch : Nat) {c : Pwm n} (h : Invariant c) : Invariant (trigger dest ch c) := by
  rcases trigger_cases dest ch c with ⟨-, -, ht⟩ | ⟨-, ht⟩ <;> rw [ht]
  · exact { h with faulted_forced := fun _ => rfl }
  · exact h

/-- What a tick promotes and what it keeps are both below the maximum (R93, invariant 4). -/
theorem tickActive_le {c : Pwm n} (h : Invariant c) (i : Fin n) : ((tickActive c)[i]).toNat ≤ c.maxDuty.toNat := by
  unfold tickActive
  split
  · exact h.pending_le i
  · exact h.active_le i

/-- After a tick a Faulted monitor still forces the pins: only an Armed monitor releases them (R128). -/
theorem tick_faulted_forced {c : Pwm n} (h : Invariant c) (hf : (tick c).fstate = .faulted) : (tick c).force = true := by
  simp only [tick_writes] at hf ⊢
  by_cases hrearm : boundaryNext c = true ∧ c.restart = .cycleByCycle
  · simp [hrearm] at hf
  · rw [if_neg hrearm] at hf
    have hkept : ¬(boundaryNext c = true ∧ (c.restart = .cycleByCycle ∨ c.fstate = .armed)) := by
      rintro ⟨hb, hr | ha⟩
      · exact hrearm ⟨hb, hr⟩
      · simp [ha] at hf
    rw [if_neg hkept]
    exact h.faulted_forced hf

/-- A tick keeps the invariants: the counter stays in range, `raw` is compared anew with what was promoted, and the Fault
Monitor's part of a boundary keeps invariant 7 (R81). -/
theorem tick_invariant {c : Pwm n} (h : Invariant c) : Invariant (tick c) := by
  have hrange := advance_counterInRange h.counterInRange h.period_pos
  have hforced := tick_faulted_forced h
  rw [tick_writes] at hforced ⊢
  exact
    { h with
      cnt_le := hrange.cnt_le
      single_phase := hrange.single_phase
      second_slope := hrange.second_slope
      active_le := tickActive_le h
      raw_iff := fun i => by simp [tickRaw, BitVec.lt_def]
      faulted_forced := hforced }

/-- A clock that holds no tick counts the prescaler below the divisor; one that does starts it again (R80, invariant 2). -/
theorem clk_invariant {c : Pwm n} (h : Invariant c) : Invariant (clk c) := by
  rcases clk_cases c with ⟨-, hc⟩ | ⟨-, -, hc⟩ | ⟨-, -, hlt, hc⟩ <;> rw [hc]
  · exact h
  · exact tick_invariant { h with presc_lt := h.div_pos }
  · exact { h with presc_lt := by dsimp only; bv_omega }

/-! ## The commands -/

/-- The carrier starts its cycle at an end of its range (R82). -/
theorem startValue_counterInRange (mode : SlopeMode) (dir : Direction) (period : Ticks) :
    CounterInRange mode period (startValue dir period) false := by
  refine ⟨?_, fun _ => rfl, nofun⟩
  cases dir
  · exact Nat.le_refl _
  · exact Nat.zero_le _

/-- `CFGCAR` keeps the invariants: its checks are the invariants that mention the period, and it restarts the counter (R70). -/
theorem loadCarrier_invariant {period : Ticks} {dir : Direction} {mode : SlopeMode} {div : Divisor} {c : Pwm n}
    (h : Invariant c) (guard : cfgcarRejected period div c = false) : Invariant (loadCarrier period dir mode div c) := by
  have hno := (cfgcarRejected_iff period div c).not.mp (by simp [guard])
  push Not at hno
  obtain ⟨-, hperiod, hdiv, hmax, hdead⟩ := hno
  have hrange := startValue_counterInRange mode dir period
  have hdivPos : 0 < div.toNat := by bv_omega
  unfold loadCarrier
  exact
    { h with
      period_pos := by dsimp only; bv_omega
      div_pos := hdivPos
      presc_lt := hdivPos
      cnt_le := hrange.cnt_le
      single_phase := hrange.single_phase
      second_slope := hrange.second_slope
      max_lt := hmax
      dead_sum := hdead
      raw_iff := fun i => by simp [BitVec.lt_def] }

/-- An accepted command keeps the invariants: each check of a command is the invariant its writes could break. -/
theorem Accepts.invariant {dest : BitVec 8} {c c' : Pwm n} {i : Instr} {d : Ticks} (ha : Accepts dest c i c' d)
    (h : Invariant c) : Invariant c' := by
  cases ha with
  | cfgcar guard => exact loadCarrier_invariant h guard
  | @cfgmax value guard =>
    have hno := (cfgmaxRejected_iff value c).not.mp (by simp [guard])
    push Not at hno
    obtain ⟨-, hperiod, hduty⟩ := hno
    exact { h with max_lt := hperiod, active_le := fun i => (hduty i).1, pending_le := fun i => (hduty i).2 }
  | @cfgdt idx low high p index guard =>
    have hno := (cfgdtRejected_iff low high c).not.mp (by simp [guard])
    push Not at hno
    refine { h with dead_sum := fun q => ?_ }
    change ((c.dtLow.set p low)[q]).toNat + ((c.dtHigh.set p high)[q]).toNat < c.period.toNat
    by_cases hpq : p = q
    · subst hpq; simpa using hno.2
    · simpa [Fin.val_ne_of_ne hpq] using h.dead_sum q
  | cfgflt guard => exact { h with }
  | start guard => exact { h with }
  | stop => exact { h with }
  | @wrduty idx value p index guard =>
    refine { h with pending_le := fun q => ?_ }
    change ((c.pending.set p value)[q]).toNat ≤ c.maxDuty.toNat
    by_cases hpq : p = q
    · subst hpq; simpa [BitVec.lt_def] using guard
    · simpa [Fin.val_ne_of_ne hpq] using h.pending_le q
  | rdduty p index => exact h
  | fire ch index => exact trigger_invariant dest ch h
  | clrflt => exact { h with faulted_forced := nofun }
  | status => exact h
  | rdflags => exact h
  | ack => exact { h with }

/-- Every step of every agent keeps the invariants (R24, R7). -/
theorem HardwareStep.invariant {dest : BitVec 8} {c c' : Pwm n} {x : Option Stimulus} {r : Option Word}
    (hs : HardwareStep dest c x c' r) (h : Invariant c) : Invariant c' := by
  cases hs with
  | idle => exact h
  | command decoded answer =>
    cases answer with
    | accepted ha => exact ha.invariant h
    | rejected => exact { h with }
    | illegal => exact h
  | noCommand => exact h
  | clk => exact clk_invariant h
  | event ch => exact trigger_invariant dest ch h
  | reset => exact reset_invariant n

/-- Settles O53: the machine's step and every build's step are hardware steps, and those keep the invariants. -/
theorem stepKeepsInvariant : Obligations.StepKeepsInvariant :=
  ⟨fun _ _ hinv hstep => (step_hardware hstep).invariant hinv,
   fun _ _ _ hinv hstep => (stepIn_hardware hstep).invariant hinv⟩

end Sys2Proof.Machine
end

section
/-! PROOFS. The writers column of 10_state.md R10: what each accepted command and each hardware step leaves alone, one lemma
for the fields of a row. -/

namespace Sys2Proof.Machine

open Sys2Proof.Claims

variable {n : Nat}

/-! ## The next stimulus, as the obligations name it -/

theorem isCmd_iff (op : BitVec 4) (w : Word) : isCmd op (.cmd w) ↔ opcode w = op := by
  simp [isCmd, opcode, field]

theorem tickClk_iff (s : State) : tickClk s ↔ s.inputs.head? = some .clk ∧ ticksNext s.pwm = true := by
  rw [tickClk, List.head?_eq_some_iff]

theorem boundaryClk_iff (s : State) :
    boundaryClk s ↔ s.inputs.head? = some .clk ∧ ticksNext s.pwm = true ∧ boundaryNext s.pwm = true := by
  rw [boundaryClk, List.head?_eq_some_iff]

/-! ## What each command leaves alone -/

/-- A trigger writes `fstate`, `force` and `faultif` and nothing else (R126). -/
theorem trigger_writes (dest : BitVec 8) (ch : Nat) (c : Pwm n) :
    trigger dest ch c =
      { c with
        fstate := (trigger dest ch c).fstate, force := (trigger dest ch c).force, faultif := (trigger dest ch c).faultif } := by
  rcases trigger_cases dest ch c with ⟨-, -, h⟩ | ⟨-, h⟩ <;> rw [h]

section

variable {dest : BitVec 8} {c c' : Pwm n} {i : Instr} {d : Ticks}

theorem Accepts.carrier_unchanged (ha : Accepts dest c i c' d) (hi : opcodeOf i ≠ 1) :
    c'.period = c.period ∧ c'.direction = c.direction ∧ c'.mode = c.mode ∧ c'.div = c.div := by
  cases ha with
  | cfgcar => exact absurd rfl hi
  | fire => rw [trigger_writes]; exact ⟨rfl, rfl, rfl, rfl⟩
  | _ => exact ⟨rfl, rfl, rfl, rfl⟩

theorem Accepts.presc_unchanged (ha : Accepts dest c i c' d) (hi : opcodeOf i ≠ 1) : c'.presc = c.presc := by
  cases ha with
  | cfgcar => exact absurd rfl hi
  | fire => rw [trigger_writes]
  | _ => rfl

theorem Accepts.counter_unchanged (ha : Accepts dest c i c' d) (hi : opcodeOf i ≠ 1) :
    c'.cnt = c.cnt ∧ c'.phase = c.phase ∧ c'.raw = c.raw ∧ c'.dtCnt = c.dtCnt := by
  cases ha with
  | cfgcar => exact absurd rfl hi
  | fire => rw [trigger_writes]; exact ⟨rfl, rfl, rfl, rfl⟩
  | _ => exact ⟨rfl, rfl, rfl, rfl⟩

theorem Accepts.maxDuty_unchanged (ha : Accepts dest c i c' d) (hi : opcodeOf i ≠ 2) : c'.maxDuty = c.maxDuty := by
  cases ha with
  | cfgmax => exact absurd rfl hi
  | fire => rw [trigger_writes]
  | _ => rfl

theorem Accepts.deadTimes_unchanged (ha : Accepts dest c i c' d) (hi : opcodeOf i ≠ 3) :
    c'.dtLow = c.dtLow ∧ c'.dtHigh = c.dtHigh := by
  cases ha with
  | cfgdt => exact absurd rfl hi
  | fire => rw [trigger_writes]; exact ⟨rfl, rfl⟩
  | _ => exact ⟨rfl, rfl⟩

theorem Accepts.faultConfig_unchanged (ha : Accepts dest c i c' d) (hi : opcodeOf i ≠ 4) :
    c'.restart = c.restart ∧ c'.safe = c.safe ∧ c'.evmask = c.evmask := by
  cases ha with
  | cfgflt => exact absurd rfl hi
  | fire => rw [trigger_writes]; exact ⟨rfl, rfl, rfl⟩
  | _ => exact ⟨rfl, rfl, rfl⟩

theorem Accepts.enabled_unchanged (ha : Accepts dest c i c' d) (hstart : opcodeOf i ≠ 5) (hstop : opcodeOf i ≠ 6) :
    c'.enabled = c.enabled := by
  cases ha with
  | start => exact absurd rfl hstart
  | stop => exact absurd rfl hstop
  | fire => rw [trigger_writes]
  | _ => rfl

theorem Accepts.pending_unchanged (ha : Accepts dest c i c' d) (hi : opcodeOf i ≠ 7) : c'.pending = c.pending := by
  cases ha with
  | wrduty => exact absurd rfl hi
  | fire => rw [trigger_writes]
  | _ => rfl

/-- No command writes an active duty value: it is the boundary that promotes (R93). -/
theorem Accepts.active_unchanged (ha : Accepts dest c i c' d) : c'.active = c.active := by
  cases ha with
  | fire => rw [trigger_writes]
  | _ => rfl

theorem Accepts.tickFlags_unchanged (ha : Accepts dest c i c' d) (hi : opcodeOf i ≠ 13) :
    c'.matchFlag = c.matchFlag ∧ c'.ovf = c.ovf := by
  cases ha with
  | ack => exact absurd rfl hi
  | fire => rw [trigger_writes]; exact ⟨rfl, rfl⟩
  | _ => exact ⟨rfl, rfl⟩

theorem Accepts.faultif_unchanged (ha : Accepts dest c i c' d) (hfire : opcodeOf i ≠ 9) (hack : opcodeOf i ≠ 13) :
    c'.faultif = c.faultif := by
  cases ha with
  | fire => exact absurd rfl hfire
  | ack => exact absurd rfl hack
  | _ => rfl

theorem Accepts.fstate_unchanged (ha : Accepts dest c i c' d) (hfire : opcodeOf i ≠ 9) (hclear : opcodeOf i ≠ 10) :
    c'.fstate = c.fstate := by
  cases ha with
  | fire => exact absurd rfl hfire
  | clrflt => exact absurd rfl hclear
  | _ => rfl

theorem Accepts.force_unchanged (ha : Accepts dest c i c' d) (hi : opcodeOf i ≠ 9) : c'.force = c.force := by
  cases ha with
  | fire => exact absurd rfl hi
  | _ => rfl

/-- An accepted command does not touch `cfgerr`: only an exception sets it, only `RESET` clears it (R150). -/
theorem Accepts.cfgerr_unchanged (ha : Accepts dest c i c' d) : c'.cfgerr = c.cfgerr := by
  cases ha with
  | fire => rw [trigger_writes]
  | _ => rfl

end

/-! ## The writers column -/

/-- Settles O50: a rejected or undecoded word leaves every field but `cfgerr` alone, an accepted one all but its own row's, and of
the hardware's steps only a tick writes more than the prescaler. -/
theorem fieldsChangeOnlyByTheirWriters : Obligations.FieldsChangeOnlyByTheirWriters := by
  intro s t x rest hx hstep hreset
  have hs := step_hardware hstep
  rw [tickClk_iff, boundaryClk_iff]
  rw [hx, List.head?_cons] at *
  generalize s.pwm = c at *
  generalize t.pwm = c' at *
  generalize t.response = r at *
  cases hs with
  | @command w i _ _ decoded answer =>
    cases answer with
    | accepted ha =>
      have writer (op : BitVec 4) (h : ¬isCmd op (.cmd w)) : opcodeOf i ≠ op := by
        rwa [isCmd_iff, opcode_of_decodeFor decoded] at h
      exact
        ⟨fun h => ha.carrier_unchanged (writer 1 h), fun h => ha.maxDuty_unchanged (writer 2 h),
          fun h => ha.deadTimes_unchanged (writer 3 h), fun h => ha.faultConfig_unchanged (writer 4 h),
          fun h h' => ha.enabled_unchanged (writer 5 h) (writer 6 h'), fun h => ha.pending_unchanged (writer 7 h),
          fun _ h => ha.presc_unchanged (writer 1 h), fun _ h => ha.counter_unchanged (writer 1 h),
          fun _ => ha.active_unchanged, fun _ h => ha.tickFlags_unchanged (writer 13 h),
          fun h _ h' => ha.faultif_unchanged (writer 9 h) (writer 13 h'),
          fun h _ h' _ => ha.fstate_unchanged (writer 9 h) (writer 10 h'), fun h _ _ => ha.force_unchanged (writer 9 h),
          fun _ => ha.cfgerr_unchanged⟩
    | rejected => simp
    | illegal => simp
  | noCommand => simp
  | clk =>
    rcases clk_cases c with ⟨-, hc⟩ | ⟨htick, -, hc⟩ | ⟨-, -, -, hc⟩ <;> rw [hc]
    · simp
    · rw [tick_presc, tick_writes]
      simp +contextual [htick, tickActive]
    · simp
  | event ch =>
    rw [trigger_writes]
    simp
  | reset => exact absurd rfl hreset

end Sys2Proof.Machine
end

section
/-! PROOFS. What sets each event flag (10_state.md R19, 60_exceptions.md R155): at each stimulus, the flag that was 0 is 1
afterwards exactly if its event happened. -/

namespace Sys2Proof.Machine

section

variable {n : Nat} {dest : BitVec 8} {c c' : Pwm n} {i : Instr} {d : Ticks}

/-- No command sets `ovf` (R85, R141). -/
theorem Accepts.ovf_stays_clear (ha : Accepts dest c i c' d) (h : c.ovf = false) : c'.ovf = false := by
  cases ha with
  | ack => simp [acknowledge, h]
  | fire => rw [trigger_writes]; exact h
  | _ => exact h

/-- No command sets a match flag (R94, R141). -/
theorem Accepts.matchFlag_stays_clear (ha : Accepts dest c i c' d) (p : Fin n) (h : c.matchFlag[p] = false) :
    c'.matchFlag[p] = false := by
  cases ha with
  | ack =>
    rw [Fin.getElem_fin] at h ⊢
    simp [acknowledge, h]
  | fire => rw [trigger_writes]; exact h
  | _ => exact h

/-- The monitor is taken from Armed to Faulted. -/
def Latches (c c' : Pwm n) : Prop := c.fstate = .armed ∧ c'.fstate = .faulted

theorem not_latches_of_fstate_eq (h : c'.fstate = c.fstate) : ¬Latches c c' := by
  rintro ⟨ha, hf⟩
  rw [h, ha] at hf
  cases hf

theorem not_latches_of_armed (h : c'.fstate = .armed) : ¬Latches c c' := by
  rintro ⟨-, hf⟩
  rw [h] at hf
  cases hf

/-- A trigger sets `faultif` exactly when it latches the fault (R126). -/
theorem trigger_faultif_iff (ch : Nat) (h : c.faultif = false) :
    (trigger dest ch c).faultif = true ↔ Latches c (trigger dest ch c) := by
  rcases trigger_cases dest ch c with ⟨-, harmed, ht⟩ | ⟨-, ht⟩ <;> rw [ht]
  · simp [Latches, harmed]
  · simp [h, not_latches_of_fstate_eq]

/-- Of the commands only `FIRE` latches, and only it sets `faultif` (R121). -/
theorem Accepts.faultif_iff (ha : Accepts dest c i c' d) (h : c.faultif = false) : c'.faultif = true ↔ Latches c c' := by
  cases ha with
  | fire ch => exact trigger_faultif_iff ch.val h
  | clrflt => simp [h, not_latches_of_armed]
  | ack => simp [acknowledge, h, not_latches_of_fstate_eq]
  | _ => simp [h, not_latches_of_fstate_eq, loadCarrier, writeDeadTimes]

/-- A tick's boundary may re-arm the monitor, and never latches (R128). -/
theorem tick_not_latches (c : Pwm n) : ¬Latches c (tick c) := by
  by_cases hrearm : boundaryNext c = true ∧ c.restart = .cycleByCycle
  · exact not_latches_of_armed (by rw [tick_writes]; exact if_pos hrearm)
  · exact not_latches_of_fstate_eq (by rw [tick_writes]; exact if_neg hrearm)

end

/-- Settles O48: `ovf` and `match[i]` are set in the tick branch of a clock, `faultif` by a trigger, `cfgerr` by the rejected
command, whose response no other step has. -/
theorem flagsSetOnlyByTheirEvents : Obligations.FlagsSetOnlyByTheirEvents := by
  intro s t hstep
  have hs := step_hardware hstep
  rw [boundaryClk_iff]
  simp only [← List.head?_eq_some_iff]
  change _ ∧ _ ∧ (_ → (_ ↔ Latches s.pwm t.pwm)) ∧ _
  generalize s.inputs.head? = x at *
  generalize s.pwm = c at *
  generalize t.pwm = c' at *
  generalize t.response = r at *
  cases hs with
  | idle => simp +contextual [not_latches_of_fstate_eq]
  | command decoded answer =>
    cases answer with
    | accepted ha =>
      refine ⟨fun h => ?_, fun p h => ?_, ha.faultif_iff, fun h => ?_⟩
      · simp [ha.ovf_stays_clear h]
      · simp [ha.matchFlag_stays_clear p h]
      · simp [ha.cfgerr_unchanged, h, okWord_ne_configurationError]
    | rejected => simp +contextual [not_latches_of_fstate_eq]
    | illegal => simp +contextual [not_latches_of_fstate_eq]
  | noCommand => simp +contextual [not_latches_of_fstate_eq]
  | clk =>
    rcases clk_cases c with ⟨hstopped, hc⟩ | ⟨htick, -, hc⟩ | ⟨-, htick, -, hc⟩ <;> rw [hc]
    · simp +contextual [ticksNext, hstopped, not_latches_of_fstate_eq]
    · rw [tick_presc]
      have hlatch : ¬Latches c { tick c with presc := 0 } := tick_not_latches c
      refine ⟨fun h => ?_, fun p h => ?_, fun h => iff_of_false ?_ hlatch, fun h => ?_⟩ <;> rw [tick_writes]
      · simp [htick, h]
      · rw [Fin.getElem_fin] at h
        simp [htick, h]
      · simp [h]
      · simp [h]
    · simp +contextual [htick, not_latches_of_fstate_eq]
  | event ch =>
    refine ⟨fun h => ?_, fun p h => ?_, trigger_faultif_iff ch.val, fun h => ?_⟩
    · rw [trigger_writes]; simp [h]
    · rw [trigger_writes]; simpa using h
    · rw [trigger_writes]; simp [h]
  | reset => simp [Pwm.reset, not_latches_of_armed]

end Sys2Proof.Machine
end

section
/-! PROOFS. The second half of invariant 6 of 10_state.md R24: every step but an accepted `CFGDT` over a running dead time keeps
it, and a run with such a `CFGDT` breaks it (log entry 8). -/

namespace Sys2Proof.Machine

open Sys2Proof.Claims

theorem cmdNext_iff (op : BitVec 4) (s : State) :
    cmdNext op s ↔ ∃ w, s.inputs.head? = some (.cmd w) ∧ opcode w = op := by
  simp only [cmdNext, List.head?_eq_some_iff, exists_and_right]
  rfl

section

variable {n : Nat} {dest : BitVec 8} {c c' : Pwm n} {i : Instr} {d : Ticks}

theorem trigger_deadCountBounded (ch : Nat) (h : DeadCountBounded c) : DeadCountBounded (trigger dest ch c) := by
  rw [trigger_writes]
  exact h

/-- A tick loads a dead time, counts down or leaves the counter at 0 (R107). -/
theorem tick_deadCountBounded (h : DeadCountBounded c) : DeadCountBounded (tick c) := by
  rw [tick_writes]
  intro p
  have hold := h p
  have hnext := deadTimeNext_cases c p (tickRaw c p)
  change ((Vector.ofFn fun p => deadTimeNext c p (tickRaw c p))[p]).toNat ≤ max (c.dtLow[p]).toNat (c.dtHigh[p]).toNat
  rw [Fin.getElem_fin, Vector.getElem_ofFn]
  rcases hnext with heq | heq | hle
  · exact heq ▸ Nat.le_max_right _ _
  · exact heq ▸ Nat.le_max_left _ _
  · exact hle.trans hold

theorem clk_deadCountBounded (h : DeadCountBounded c) : DeadCountBounded (clk c) := by
  rcases clk_cases c with ⟨-, hc⟩ | ⟨-, -, hc⟩ | ⟨-, -, -, hc⟩ <;> rw [hc]
  · exact h
  · exact tick_deadCountBounded (c := { c with presc := 0 }) h
  · exact h

/-- `CFGCAR` stops every dead time, a `CFGDT` may come only over stopped ones, and no other command touches a dead time or its
counter (R10). -/
theorem Accepts.deadCountBounded (ha : Accepts dest c i c' d) (h : DeadCountBounded c)
    (exempt : opcodeOf i = 3 → d = 0 → ∀ p : Fin n, c.dtCnt[p] = 0) : DeadCountBounded c' := by
  cases ha with
  | cfgcar => intro p; simp [loadCarrier]
  | @cfgdt idx low high q =>
    intro p
    have hzero : (writeDeadTimes q low high c).dtCnt[p] = 0 := exempt rfl rfl p
    simp [hzero]
  | fire ch => exact trigger_deadCountBounded ch.val h
  | _ => exact h

end

/-- Settles O56: the steps that move a dead time or its counter are a tick, `CFGCAR`, `RESET` and the exempt `CFGDT`. -/
theorem deadCountBoundKeptButByCfgdt : Obligations.DeadCountBoundKeptButByCfgdt := by
  intro s t h hstep hexc
  have hs := step_hardware hstep
  rw [cmdNext_iff] at hexc
  generalize s.inputs.head? = x at *
  generalize s.pwm = c at *
  generalize t.pwm = c' at *
  generalize t.response = r at *
  cases hs with
  | idle => exact h
  | @command w i _ _ decoded answer =>
    cases answer with
    | @accepted _ d ha =>
      refine ha.deadCountBounded h fun hop hd p => ?_
      by_contra hrunning
      exact hexc ⟨⟨w, rfl, (opcode_of_decodeFor decoded).trans hop⟩, by rw [hd]; rfl, p, hrunning⟩
    | rejected => exact h
    | illegal => exact h
  | noCommand => exact h
  | clk => exact clk_deadCountBounded h
  | event ch => exact trigger_deadCountBounded ch.val h
  | reset => exact reset_deadCountBounded _

/-! ## The run that breaks it -/

theorem Reaches.head {s t u : State} (h : step s = .next t) (hu : Reaches t u) : Reaches s u := by
  induction hu with
  | refl => exact .tail (.refl _) h
  | tail _ hstep ih => exact .tail ih hstep

/-- What a run of the machine ends in is reached. -/
theorem reaches_of_run {k : Nat} {s t : State} (h : Host.Core.run core k s = .next t) : Reaches s t := by
  induction k generalizing s with
  | zero => cases h; exact .refl _
  | succ k ih =>
    simp only [Host.Core.run] at h
    split at h
    · next u hu => exact .head hu (ih h)
    · cases h
    · cases h

/-- `CFGCAR 3`, `CFGMAX 2`, `CFGDT 0, 0, 2`, `WRDUTY 0, 1`, `START`, seven clocks, `STOP` inside the dead time of pair 0, then
`CFGDT 0, 0, 0` (log entry 8). -/
def stopInsideDeadTime : List Stimulus :=
  [.cmd 0x10010003, .cmd 0x20000002, .cmd 0x30000002, .cmd 0x70000001, .cmd 0x50000000] ++
    List.replicate 7 .clk ++ [.cmd 0x60000000, .cmd 0x30000000]

theorem run_stopInsideDeadTime :
    ∃ t : State, Host.Core.run core 14 (resetWith stopInsideDeadTime) = .next t ∧
      t.pwm.dtCnt[0] = 2 ∧ t.pwm.dtLow[0] = 0 ∧ t.pwm.dtHigh[0] = 0 :=
  ⟨_, rfl, by decide, by decide, by decide⟩

/-- Refutes O55: the run leaves `dt_cnt[0]` at 2 with both dead times 0, because R105 does not touch a frozen `dt_cnt`. -/
theorem not_deadCountBoundedWhenReachable : ¬ Obligations.DeadCountBoundedWhenReachable := by
  intro h
  obtain ⟨t, hrun, hcnt, hlow, hhigh⟩ := run_stopInsideDeadTime
  have hbound := h stopInsideDeadTime t (reaches_of_run hrun) 0
  simp [hcnt, hlow, hhigh] at hbound

end Sys2Proof.Machine
end

section
/-! PROOFS. The packed registers of 10_state.md R25: each has the layout of its command's payload. -/

namespace Sys2Proof.Machine

/-- Settles O28: an answer of 0 says that the command was accepted, and an accepted configuration command writes its operands to
the fields its register is packed from. -/
theorem registerViewsShowTheCommand : Obligations.RegisterViewsShowTheCommand := by
  intro i s t _ hexec hresponse
  obtain ⟨r, hr, ha⟩ := exec_answers hexec
  obtain ⟨d, hacc⟩ := ha.accepted_of_zero (Option.some.inj (hr.symm.trans hresponse))
  generalize t.pwm = c' at *
  cases hacc with
  | @cfgcar period dir mode div => exact (encode_and_payload (.cfgcar period dir mode div)).symm
  | @cfgmax value => exact (encode_and_payload (.cfgmax value)).symm
  | @cfgflt restart safe mask => exact (encode_and_payload (.cfgflt restart safe mask)).symm
  | @cfgdt idx low high q index =>
    intro p hp
    obtain rfl : q = p := Fin.ext (index.trans hp.symm)
    rw [encode_cfgdt_and_low]
    simp [dtcfgView]
  | @wrduty idx value q index =>
    intro p hp
    obtain rfl : q = p := Fin.ext (index.trans hp.symm)
    rw [encode_wrduty_and_low]
    simp [dutybufView]
  | _ => trivial

end Sys2Proof.Machine
end

section
/-! PROOFS. Every command is idempotent (20_memory.md R43): a command is a check, an answer and a write of the hardware state, and
neither the write nor the exception of the first time changes what the second time checks, answers or writes. -/

namespace Sys2Proof.Machine

variable {n : Nat}

/-- Given twice with no step in between, the meaning `m` leaves the state as given once, the response included (R43). -/
def Repeatable (m : State n → Result n) : Prop := ∀ s t, m s = .next t → m t = .next t

theorem repeatable_raiseIllegalCommand : Repeatable (raiseIllegalCommand (n := n)) := by
  intro s t h
  cases h
  rfl

/-- A command without a check is repeatable if its write is idempotent and its answer does not see the write. -/
theorem repeatable_respond {data : Pwm n → Ticks} {write : Pwm n → Pwm n} (write_write : ∀ c, write (write c) = write c)
    (data_write : ∀ c, data (write c) = data c) : Repeatable fun s => respond (data s.pwm) (write s.pwm) s := by
  intro s t h
  cases h
  simp only [respond, answer_pwm, write_write, data_write]
  rfl

/-- A command with a check is repeatable if its write is idempotent, a rejection is not lifted by the `cfgerr` it sets, and the
write of an accepted command is no reason to reject it. -/
theorem repeatable_checked {rejects : Pwm n → Prop} [DecidablePred rejects] {write : Pwm n → Pwm n}
    (stays_rejected : ∀ c, rejects c → rejects { c with cfgerr := true })
    (stays_accepted : ∀ c, rejects (write c) → rejects c) (write_write : ∀ c, write (write c) = write c) :
    Repeatable fun s => if rejects s.pwm then raiseConfigurationError s else respond 0 (write s.pwm) s := by
  intro s t h
  dsimp only at h ⊢
  split at h
  · next hrejected =>
    cases h
    exact if_pos (stays_rejected _ hrejected)
  · next haccepted =>
    cases h
    rw [answer_pwm, if_neg (haccepted ∘ stays_accepted _), write_write]
    rfl

/-! ## The writes that are idempotent for a reason -/

/-- A Faulted monitor drops every event (R126). -/
theorem trigger_of_faulted (dest : BitVec 8) (ch : Nat) {c : Pwm n} (h : c.fstate = .faulted) : trigger dest ch c = c := by
  simp [trigger, h]

/-- The second event finds the monitor Faulted, or is dropped as the first was (R126). -/
theorem trigger_trigger (dest : BitVec 8) (ch : Nat) (c : Pwm n) :
    trigger dest ch (trigger dest ch c) = trigger dest ch c := by
  rcases trigger_cases dest ch c with ⟨-, -, latched⟩ | ⟨-, dropped⟩
  · exact trigger_of_faulted dest ch (by rw [latched])
  · rw [dropped, dropped]

/-- A flag that is cleared stays cleared (R141). -/
theorem acknowledge_acknowledge (m : BitVec 10) (c : Pwm n) : acknowledge m (acknowledge m c) = acknowledge m c := by
  simp [acknowledge]

theorem writePending_writePending (p : Fin n) (v : Ticks) (c : Pwm n) :
    writePending p v (writePending p v c) = writePending p v c := by
  simp [writePending]

theorem writeDeadTimes_writeDeadTimes (p : Fin n) (low high : DeadTicks) (c : Pwm n) :
    writeDeadTimes p low high (writeDeadTimes p low high c) = writeDeadTimes p low high c := by
  simp [writeDeadTimes]

/-! ## The commands -/

/-- Every command of every build is repeatable: no check reads `cfgerr` but that of `START`, which wants it clear, and no check
reads what its own command writes. -/
theorem execIn_repeatable (b : Config.Build) (i : Instr) : Repeatable (execIn b i) := by
  cases i with
  | cfgcar period dir mode div =>
    exact repeatable_checked (rejects := fun c => cfgcarRejected period div c = true)
      (write := loadCarrier period dir mode div) (fun _ h => h) (fun _ h => h) fun _ => rfl
  | cfgmax value =>
    exact repeatable_checked (rejects := fun c => cfgmaxRejected value c = true)
      (write := fun c => { c with maxDuty := value }) (fun _ h => h) (fun _ h => h) fun _ => rfl
  | cfgdt idx low high =>
    unfold execIn execCfgdt
    rcases channelOf_cases b.numChannels idx with hp | ⟨p, hp, -⟩ <;> simp only [hp]
    · exact repeatable_raiseIllegalCommand
    · exact repeatable_checked (rejects := fun c => cfgdtRejected low high c = true)
        (fun _ h => h) (fun _ h => h) (writeDeadTimes_writeDeadTimes p low high)
  | cfgflt restart safe mask =>
    exact repeatable_checked (rejects := fun c => c.enabled = true)
      (write := fun c => { c with restart := restart, safe := safe, evmask := mask }) (fun _ h => h) (fun _ h => h) fun _ => rfl
  | start =>
    exact repeatable_checked (rejects := fun c => c.cfgerr = true)
      (write := fun c => { c with enabled := true }) (fun _ _ => rfl) (fun _ h => h) fun _ => rfl
  | stop =>
    exact repeatable_respond (data := fun _ => 0) (write := fun c => { c with enabled := false }) (fun _ => rfl) fun _ => rfl
  | wrduty idx value =>
    unfold execIn execWrduty
    rcases channelOf_cases b.numChannels idx with hp | ⟨p, hp, -⟩ <;> simp only [hp]
    · exact repeatable_raiseIllegalCommand
    · exact repeatable_checked (rejects := fun c => c.maxDuty < value)
        (fun _ h => h) (fun _ h => h) (writePending_writePending p value)
  | rdduty idx sel =>
    unfold execIn execRdduty
    rcases channelOf_cases b.numChannels idx with hp | ⟨p, hp, -⟩ <;> simp only [hp]
    · exact repeatable_raiseIllegalCommand
    · exact repeatable_respond (data := readDuty sel p) (write := id) (fun _ => rfl) fun _ => rfl
  | fire idx =>
    unfold execIn fireFor
    rcases eventChannelOf_cases idx with hc | ⟨ch, hc, -⟩ <;> simp only [hc]
    · exact repeatable_raiseIllegalCommand
    · exact repeatable_respond (data := fun _ => 0) (trigger_trigger b.destMask ch.val) fun _ => rfl
  | clrflt =>
    exact repeatable_respond (data := fun _ => 0) (write := fun c => { c with fstate := .armed }) (fun _ => rfl) fun _ => rfl
  | status =>
    exact repeatable_respond (data := fun c => (faultStateBit c.fstate).setWidth 16) (write := id) (fun _ => rfl) fun _ => rfl
  | rdflags => exact repeatable_respond (data := flagWord) (write := id) (fun _ => rfl) fun _ => rfl
  | ack mask => exact repeatable_respond (data := fun _ => 0) (acknowledge_acknowledge mask) fun _ => rfl

/-- Settles O27: the machine is the build with the stated values, and there every command is repeatable. -/
theorem commandsIdempotent : Obligations.CommandsIdempotent := by
  intro i
  rw [exec_eq_execIn]
  exact execIn_repeatable Config.defaultBuild i

end Sys2Proof.Machine
end

section
/-! PROOFS. Words written down as bytes (20_memory.md R41), and what a word presented at the command port runs. -/

namespace Sys2Proof

/-- A word written down as four bytes is read back as the same word (R41). -/
theorem wordOfBytes_fields (w : Word) :
    wordOfBytes (field 0 8 w) (field 8 8 w) (field 16 8 w) (field 24 8 w) = w := by
  have from0 : place 0 (field 0 32 w) = place 0 (field 0 8 w) ||| place 8 (field 8 24 w) :=
    place_field_split (a := 8) (b := 24) 0 w
  have from8 : place 8 (field 8 24 w) = place 8 (field 8 8 w) ||| place 16 (field 16 16 w) :=
    place_field_split (a := 8) (b := 16) 8 w
  have from16 : place 16 (field 16 16 w) = place 16 (field 16 8 w) ||| place 24 (field 24 8 w) :=
    place_field_split (a := 8) (b := 8) 16 w
  calc wordOfBytes (field 0 8 w) (field 8 8 w) (field 16 8 w) (field 24 8 w)
    _ = place 0 (field 0 32 w) := by rw [from0, from8, from16, wordOfBytes, BitVec.or_assoc, BitVec.or_assoc]
    _ = w := (word_eq_place w).symm

/-- The bytes of one word decode as the word does, and none is left over. -/
theorem decodeBytes_bytesOfWord (w : Word) : decodeBytes (bytesOfWord w) = (decode w).map fun i => (i, []) := by
  simp only [bytesOfWord, decodeBytes, wordOfBytes_fields]
  cases decode w <;> rfl

/-- An opcode-table row's instruction is the one its word decodes to: the way over bytes changes nothing. -/
theorem decode_of_decodeTableWord {nbits w : Nat} {i : Instr} (h : decodeTableWord nbits w = some i) :
    decode (tableWord nbits w) = .ok i := by
  rw [decodeTableWord, decodeBytes_bytesOfWord] at h
  cases hd : decode (tableWord nbits w) <;> rw [hd] at h <;> cases h
  rfl

namespace Machine

/-- The step after a word is presented runs its command and leaves what waited before it (log entry 1). -/
theorem nextStep_presentWord {n : Nat} {run : Executor n} {dest : BitVec 8} {w : Word} {i : Instr}
    (hd : decodeFor n w = .ok i) (s : State n) : nextStep run dest (presentWord w s) = run i s :=
  nextStep_of_command (presentWord_inputs w s) hd

/-- Settles O7: `withFetchWord` presents the row's word, and a word's bytes are its fields at 0, 8, 16 and 24. -/
theorem presentedWordRunsNext : Obligations.PresentedWordRunsNext :=
  ⟨fun s _ _ _ h => nextStep_presentWord (decode_of_decodeTableWord h) s, fun w => ⟨rfl, wordOfBytes_fields w⟩⟩

end Machine

end Sys2Proof
end

section
/-! PROOFS. The layout of every command's word, field by field (30_encoding.md R51): a word is the encoding of a command exactly
when it holds the command's fields, and that is what the decoder tests (R55). -/

namespace Sys2Proof

/-! ## Words as lists of fields -/

/-- A list of fields, each a width and a value. -/
abbrev FieldList := List ((k : Nat) × BitVec k)

/-- From bit `lo` up, the word holds the fields of the list, one above the other. -/
def HasFields (w : Word) : Nat → FieldList → Prop
  | _, [] => True
  | lo, ⟨k, v⟩ :: fs => field lo k w = v ∧ HasFields w (lo + k) fs

/-- The number of bits the fields of the list fill. -/
def totalWidth (fs : FieldList) : Nat := (fs.map Sigma.fst).sum

/-- The same field of two words gives the same bits. -/
theorem getLsbD_eq_of_field_eq {lo k j : Nat} {x y : Word} (h : field lo k x = field lo k y) (hlo : lo ≤ j)
    (hj : j < lo + k) : x.getLsbD j = y.getLsbD j := by
  have hb := congrArg (fun v : BitVec k => v.getLsbD (j - lo)) h
  simpa [field, show j - lo < k by omega, show lo + (j - lo) = j by omega] using hb

/-- Two words that hold the same fields have the same bits there. -/
theorem getLsbD_eq_of_hasFields {x y : Word} {fs : FieldList} {lo j : Nat} (hx : HasFields x lo fs)
    (hy : HasFields y lo fs) (hlo : lo ≤ j) (hj : j < lo + totalWidth fs) : x.getLsbD j = y.getLsbD j := by
  induction fs generalizing lo with
  | nil => simp [totalWidth] at hj; omega
  | cons f fs ih =>
    obtain ⟨hxf, hxs⟩ := hx
    obtain ⟨hyf, hys⟩ := hy
    by_cases hk : j < lo + f.1
    · exact getLsbD_eq_of_field_eq (hxf.trans hyf.symm) hlo hk
    · refine ih hxs hys (by omega) ?_
      simp only [totalWidth, List.map_cons, List.sum_cons] at hj ⊢
      omega

/-- Fields that fill all 32 bits leave one word. -/
theorem eq_of_hasFields {x y : Word} {fs : FieldList} (hx : HasFields x 0 fs) (hy : HasFields y 0 fs)
    (h : totalWidth fs = 32) : x = y :=
  BitVec.eq_of_getLsbD_eq fun _ hj => getLsbD_eq_of_hasFields hx hy (Nat.zero_le _) (by omega)

/-! ## The formats of R51 -/

/-- The fields of a command's word from bit 0 up, the reserved ones included (R51). -/
def layout : Instr → FieldList
  | .cfgcar period dir mode div => [⟨16, period⟩, ⟨10, div⟩, ⟨1, modeBit mode⟩, ⟨1, dirBit dir⟩, ⟨4, 0x1⟩]
  | .cfgmax value => [⟨16, value⟩, ⟨12, 0⟩, ⟨4, 0x2⟩]
  | .cfgdt idx low high => [⟨8, high⟩, ⟨8, low⟩, ⟨8, 0⟩, ⟨4, idx⟩, ⟨4, 0x3⟩]
  | .cfgflt restart safe mask => [⟨8, mask⟩, ⟨18, 0⟩, ⟨1, levelBit safe⟩, ⟨1, restartBit restart⟩, ⟨4, 0x4⟩]
  | .start => [⟨28, 0⟩, ⟨4, 0x5⟩]
  | .stop => [⟨28, 0⟩, ⟨4, 0x6⟩]
  | .wrduty idx value => [⟨16, value⟩, ⟨8, 0⟩, ⟨4, idx⟩, ⟨4, 0x7⟩]
  | .rdduty idx sel => [⟨16, 0⟩, ⟨1, selBit sel⟩, ⟨7, 0⟩, ⟨4, idx⟩, ⟨4, 0x8⟩]
  | .fire idx => [⟨24, 0⟩, ⟨4, idx⟩, ⟨4, 0x9⟩]
  | .clrflt => [⟨28, 0⟩, ⟨4, 0xA⟩]
  | .status => [⟨28, 0⟩, ⟨4, 0xB⟩]
  | .rdflags => [⟨28, 0⟩, ⟨4, 0xC⟩]
  | .ack mask => [⟨10, mask⟩, ⟨18, 0⟩, ⟨4, 0xD⟩]

theorem totalWidth_layout (i : Instr) : totalWidth (layout i) = 32 := by cases i <;> rfl

/-- A command's word holds the fields of its format: each operand in its place and 0 in the reserved bits (R51). -/
theorem hasFields_encode (i : Instr) : HasFields (encode i) 0 (layout i) := by
  cases i <;>
    simp (disch := decide) [HasFields, layout, encode, payloadOf, opcodeOf, field_place_same, field_place_above,
      field_place_below]

/-- A word is the encoding of a command exactly when it holds the command's fields. -/
theorem encode_eq_iff_hasFields (i : Instr) (w : Word) : encode i = w ↔ HasFields w 0 (layout i) :=
  ⟨fun h => h ▸ hasFields_encode i, fun h => eq_of_hasFields (hasFields_encode i) h (totalWidth_layout i)⟩

/-! ## The decoder (R55) -/

/-- What the five formats without operands test (R51). -/
theorem decodeNone_eq_ok_iff {w : Word} {i j : Instr} : decodeNone w i = .ok j ↔ field 0 28 w = 0 ∧ i = j := by
  refine ⟨fun h => ?_, fun ⟨hreserved, hij⟩ => ?_⟩
  · obtain ⟨clear, hij⟩ := checkReserved_eq_ok h
    exact ⟨of_decide_eq_true clear, hij⟩
  · simp [decodeNone, checkReserved, hreserved, hij]

/-- A word that holds the fields of a well-formed command decodes to it: no check of R55 fails and every operand is read back. -/
theorem decodeFor_of_hasFields {n : Nat} {w : Word} {i : Instr} (h : HasFields w 0 (layout i)) (hwf : i.wfFor n = true) :
    decodeFor n w = .ok i := by
  cases i with (simp only [layout, HasFields, Nat.reduceAdd] at h; simp only [Instr.wfFor] at hwf)
  | cfgcar period dir mode div =>
    obtain ⟨hperiod, hdiv, hmode, hdir, hop, -⟩ := h
    simp [decodeFor_cfgcar hop, decodeCfgcar, hperiod, hdiv, hmode, hdir]
  | cfgmax value =>
    obtain ⟨hvalue, hreserved, hop, -⟩ := h
    simp [decodeFor_cfgmax hop, decodeCfgmax, checkReserved, hvalue, hreserved]
  | cfgdt idx low high =>
    obtain ⟨hhigh, hlow, hreserved, hidx, hop, -⟩ := h
    simp [decodeFor_cfgdt hop, decodeCfgdt, checkIndexed, hhigh, hlow, hreserved, hidx, hwf]
  | cfgflt restart safe mask =>
    obtain ⟨hmask, hreserved, hsafe, hrestart, hop, -⟩ := h
    simp [decodeFor_cfgflt hop, decodeCfgflt, checkReserved, hmask, hreserved, hsafe, hrestart]
  | start =>
    obtain ⟨hreserved, hop, -⟩ := h
    exact decodeFor_start hop ▸ decodeNone_eq_ok_iff.mpr ⟨hreserved, rfl⟩
  | stop =>
    obtain ⟨hreserved, hop, -⟩ := h
    exact decodeFor_stop hop ▸ decodeNone_eq_ok_iff.mpr ⟨hreserved, rfl⟩
  | wrduty idx value =>
    obtain ⟨hvalue, hreserved, hidx, hop, -⟩ := h
    simp [decodeFor_wrduty hop, decodeWrduty, checkIndexed, hvalue, hreserved, hidx, hwf]
  | rdduty idx sel =>
    obtain ⟨hlow, hsel, hreserved, hidx, hop, -⟩ := h
    simp [decodeFor_rdduty hop, decodeRdduty, checkIndexed, hlow, hsel, hreserved, hidx, hwf]
  | fire idx =>
    obtain ⟨hreserved, hidx, hop, -⟩ := h
    simp [decodeFor_fire hop, decodeFire, checkIndexed, hreserved, hidx, hwf]
  | clrflt =>
    obtain ⟨hreserved, hop, -⟩ := h
    exact decodeFor_clrflt hop ▸ decodeNone_eq_ok_iff.mpr ⟨hreserved, rfl⟩
  | status =>
    obtain ⟨hreserved, hop, -⟩ := h
    exact decodeFor_status hop ▸ decodeNone_eq_ok_iff.mpr ⟨hreserved, rfl⟩
  | rdflags =>
    obtain ⟨hreserved, hop, -⟩ := h
    exact decodeFor_rdflags hop ▸ decodeNone_eq_ok_iff.mpr ⟨hreserved, rfl⟩
  | ack mask =>
    obtain ⟨hmask, hreserved, hop, -⟩ := h
    simp [decodeFor_ack hop, decodeAck, checkReserved, hmask, hreserved]

/-- A word that decodes holds the fields of its command, which is well formed: the operands are read from their places, and the
checks of R55 passed. -/
theorem hasFields_of_decodeFor {n : Nat} {w : Word} {i : Instr} (h : decodeFor n w = .ok i) :
    HasFields w 0 (layout i) ∧ i.wfFor n = true := by
  rcases opcode_values w with op | op | op | op | op | op | op | op | op | op | op | op | op | op
  · rw [decodeFor_unassigned op] at h; cases h
  · rw [decodeFor_cfgcar op] at h
    cases h
    simp only [layout, modeBit_modeOfBit, dirBit_dirOfBit]
    exact ⟨⟨rfl, rfl, rfl, rfl, op, trivial⟩, rfl⟩
  · rw [decodeFor_cfgmax op] at h
    obtain ⟨clear, rfl⟩ := checkReserved_eq_ok h
    exact ⟨⟨rfl, of_decide_eq_true clear, op, trivial⟩, rfl⟩
  · rw [decodeFor_cfgdt op] at h
    obtain ⟨clear, inRange, rfl⟩ := checkIndexed_eq_ok h
    exact ⟨⟨rfl, rfl, of_decide_eq_true clear, rfl, op, trivial⟩, inRange⟩
  · rw [decodeFor_cfgflt op] at h
    obtain ⟨clear, rfl⟩ := checkReserved_eq_ok h
    simp only [layout, levelBit_levelOfBit, restartBit_restartOfBit]
    exact ⟨⟨rfl, of_decide_eq_true clear, rfl, rfl, op, trivial⟩, rfl⟩
  · obtain ⟨hreserved, rfl⟩ := decodeNone_eq_ok_iff.mp (decodeFor_start op ▸ h)
    exact ⟨⟨hreserved, op, trivial⟩, rfl⟩
  · obtain ⟨hreserved, rfl⟩ := decodeNone_eq_ok_iff.mp (decodeFor_stop op ▸ h)
    exact ⟨⟨hreserved, op, trivial⟩, rfl⟩
  · rw [decodeFor_wrduty op] at h
    obtain ⟨clear, inRange, rfl⟩ := checkIndexed_eq_ok h
    exact ⟨⟨rfl, of_decide_eq_true clear, rfl, op, trivial⟩, inRange⟩
  · rw [decodeFor_rdduty op] at h
    obtain ⟨clear, inRange, rfl⟩ := checkIndexed_eq_ok h
    obtain ⟨hhigh, hlow⟩ : field 17 7 w = 0 ∧ field 0 16 w = 0 := by simpa using clear
    simp only [layout, selBit_selOfBit]
    exact ⟨⟨hlow, rfl, hhigh, rfl, op, trivial⟩, inRange⟩
  · rw [decodeFor_fire op] at h
    obtain ⟨clear, inRange, rfl⟩ := checkIndexed_eq_ok h
    exact ⟨⟨of_decide_eq_true clear, rfl, op, trivial⟩, inRange⟩
  · obtain ⟨hreserved, rfl⟩ := decodeNone_eq_ok_iff.mp (decodeFor_clrflt op ▸ h)
    exact ⟨⟨hreserved, op, trivial⟩, rfl⟩
  · obtain ⟨hreserved, rfl⟩ := decodeNone_eq_ok_iff.mp (decodeFor_status op ▸ h)
    exact ⟨⟨hreserved, op, trivial⟩, rfl⟩
  · obtain ⟨hreserved, rfl⟩ := decodeNone_eq_ok_iff.mp (decodeFor_rdflags op ▸ h)
    exact ⟨⟨hreserved, op, trivial⟩, rfl⟩
  · rw [decodeFor_ack op] at h
    obtain ⟨clear, rfl⟩ := checkReserved_eq_ok h
    exact ⟨⟨rfl, of_decide_eq_true clear, op, trivial⟩, rfl⟩

/-- Settles O1: the encoder puts every field of the format in its place, and the decoder reads them there. -/
theorem decodeOfEncode : Obligations.DecodeOfEncode :=
  fun _ i hwf => decodeFor_of_hasFields (hasFields_encode i) hwf

/-- Settles O2: a word that decodes holds its command's fields, and these fill all 32 bits. -/
theorem encodeOfDecode : Obligations.EncodeOfDecode := by
  intro n w i h
  obtain ⟨hfields, hwf⟩ := hasFields_of_decodeFor h
  exact ⟨(encode_eq_iff_hasFields i w).mpr hfields, hwf⟩

end Sys2Proof
end

section
/-! PROOFS. The opcode map of 30_encoding.md R54 and the complete list of illegal words of R56: both say, with masks, what the
decoder tests field by field (R55). -/

namespace Sys2Proof

open Sys2Proof.Claims

/-! ## Masks and fields -/

/-- A mask of all ones in one field keeps that field. -/
theorem and_place_allOnes (lo k : Nat) (w : Word) : w &&& place lo (BitVec.allOnes k) = place lo (field lo k w) := by
  refine BitVec.eq_of_getLsbD_eq fun j hj => ?_
  by_cases hl : j < lo
  · simp [place, hl]
  · simp [place, field, hj, hl, show lo + (j - lo) = j by omega, Bool.and_comm]

/-- A field is 0 exactly when the word has no bit in common with the field's mask. -/
theorem and_mask_eq_zero_iff {lo k : Nat} {mask : Word} (hmask : mask = place lo (BitVec.allOnes k)) (h : lo + k ≤ 32)
    (w : Word) : w &&& mask = 0#32 ↔ field lo k w = 0 := by
  rw [hmask, and_place_allOnes]
  refine ⟨fun hz => ?_, fun hz => by rw [hz, place_zero]⟩
  rw [← field_place_same lo (field lo k w) h, hz]
  simp [field]

/-- Step 2 of R55 for a format whose reserved bits are one field: the test on the field is the test on the mask. -/
theorem clear_iff_and_mask {lo k : Nat} {mask : Word} (hmask : mask = place lo (BitVec.allOnes k)) (h : lo + k ≤ 32)
    (w : Word) : decide (field lo k w = 0) = true ↔ w &&& mask = 0 :=
  decide_eq_true_iff.trans (and_mask_eq_zero_iff hmask h w).symm

/-- Step 2 of R55 for `RDDUTY`, whose reserved bits are two fields. -/
theorem clear_iff_and_mask_rdduty (w : Word) :
    (decide (field 17 7 w = 0) && decide (field 0 16 w = 0)) = true ↔ w &&& 0x00FEFFFF#32 = 0 := by
  have hhigh : w &&& 0x00FE0000#32 = 0 ↔ field 17 7 w = 0 := and_mask_eq_zero_iff (by decide) (by decide) w
  have hlow : w &&& 0x0000FFFF#32 = 0 ↔ field 0 16 w = 0 := and_mask_eq_zero_iff (by decide) (by decide) w
  have hsplit : w &&& 0x00FEFFFF#32 = (w &&& 0x00FE0000#32) ||| (w &&& 0x0000FFFF#32) := by
    rw [← BitVec.and_or_distrib_left]; rfl
  rw [Bool.and_eq_true, decide_eq_true_iff, decide_eq_true_iff, hsplit, ← hhigh, ← hlow]
  exact BitVec.or_eq_zero_iff.symm

/-! ## What each check refuses (R55 steps 2 and 3) -/

theorem checkReserved_refuses_iff {w mask : Word} {clear : Bool} {i : Instr} (h : clear = true ↔ w &&& mask = 0) :
    (∃ e, checkReserved w clear i = .error e) ↔ w &&& mask ≠ 0 := by
  rw [ne_eq, ← h]
  cases clear <;> simp [checkReserved]

theorem checkIndexed_refuses_iff {w mask : Word} {clear inRange : Bool} {i : Instr}
    (h : clear = true ↔ w &&& mask = 0) :
    (∃ e, checkIndexed w clear inRange i = .error e) ↔ w &&& mask ≠ 0 ∨ inRange = false := by
  rw [ne_eq, ← h]
  cases clear <;> cases inRange <;> simp [checkIndexed]

theorem decodeNone_refuses_iff (w : Word) (i : Instr) :
    (∃ e, decodeNone w i = .error e) ↔ w &&& 0x0FFFFFFF#32 ≠ 0 :=
  checkReserved_refuses_iff (clear_iff_and_mask (by decide) (by decide) w)

/-! ## What the list of R56 says of each format -/

theorem illegalWord_iff (n : Nat) (w : Word) :
    illegalWord n w ↔
      (opcode w = 0 ∨ opcode w = 14 ∨ opcode w = 15) ∨ w &&& reservedMask (opcode w) ≠ 0 ∨ badIndex n w := by
  simp only [illegalWord, or_assoc]
  rfl

theorem badIndex_iff (n : Nat) (w : Word) :
    badIndex n w ↔
      ((opcode w = 3 ∨ opcode w = 7 ∨ opcode w = 8) ∧ channelInRange n (field 24 4 w) = false) ∨
        (opcode w = 9 ∧ eventInRange (field 24 4 w) = false) := by
  simp only [channelInRange, eventInRange, decide_eq_false_iff_not, Nat.not_lt]
  rfl

/-- A format without an index has only its reserved bits to be wrong. -/
theorem illegalWord_iff_of_unindexed {n : Nat} {w : Word} {op : BitVec 4} (hw : opcode w = op)
    (hop : op ∈ ([1, 2, 4, 5, 6, 10, 11, 12, 13] : List (BitVec 4))) :
    illegalWord n w ↔ w &&& reservedMask op ≠ 0 := by
  rw [illegalWord_iff, badIndex_iff, hw]
  simp only [List.mem_cons, List.not_mem_nil, or_false] at hop
  rcases hop with rfl | rfl | rfl | rfl | rfl | rfl | rfl | rfl | rfl <;> simp

/-- A format with a channel number. -/
theorem illegalWord_iff_of_channel {n : Nat} {w : Word} {op : BitVec 4} (hw : opcode w = op)
    (hop : op = 3 ∨ op = 7 ∨ op = 8) :
    illegalWord n w ↔ w &&& reservedMask op ≠ 0 ∨ channelInRange n (field 24 4 w) = false := by
  rw [illegalWord_iff, badIndex_iff, hw]
  rcases hop with rfl | rfl | rfl <;> simp

/-- The format with an Event Channel number. -/
theorem illegalWord_iff_of_event {n : Nat} {w : Word} (hw : opcode w = 9) :
    illegalWord n w ↔ w &&& reservedMask 9 ≠ 0 ∨ eventInRange (field 24 4 w) = false := by
  rw [illegalWord_iff, badIndex_iff, hw]
  simp

/-- The decoder refuses exactly the words of the list of R56. -/
theorem decodeFor_refuses_iff (n : Nat) (w : Word) : (∃ e, decodeFor n w = .error e) ↔ illegalWord n w := by
  rcases opcode_values w with op | op | op | op | op | op | op | op | op | op | op | op | op | op
  · exact iff_of_true ⟨_, decodeFor_unassigned op⟩ ((illegalWord_iff n w).mpr (.inl op))
  · rw [decodeFor_cfgcar op, illegalWord_iff_of_unindexed op (by decide)]
    exact iff_of_false (fun ⟨_, h⟩ => nomatch h) (not_not_intro BitVec.and_zero)
  · rw [decodeFor_cfgmax op, illegalWord_iff_of_unindexed op (by decide)]
    exact checkReserved_refuses_iff (clear_iff_and_mask (by decide) (by decide) w)
  · rw [decodeFor_cfgdt op, illegalWord_iff_of_channel op (by decide)]
    exact checkIndexed_refuses_iff (clear_iff_and_mask (by decide) (by decide) w)
  · rw [decodeFor_cfgflt op, illegalWord_iff_of_unindexed op (by decide)]
    exact checkReserved_refuses_iff (clear_iff_and_mask (by decide) (by decide) w)
  · rw [decodeFor_start op, illegalWord_iff_of_unindexed op (by decide)]
    exact decodeNone_refuses_iff w _
  · rw [decodeFor_stop op, illegalWord_iff_of_unindexed op (by decide)]
    exact decodeNone_refuses_iff w _
  · rw [decodeFor_wrduty op, illegalWord_iff_of_channel op (by decide)]
    exact checkIndexed_refuses_iff (clear_iff_and_mask (by decide) (by decide) w)
  · rw [decodeFor_rdduty op, illegalWord_iff_of_channel op (by decide)]
    exact checkIndexed_refuses_iff (clear_iff_and_mask_rdduty w)
  · rw [decodeFor_fire op, illegalWord_iff_of_event op]
    exact checkIndexed_refuses_iff (clear_iff_and_mask (by decide) (by decide) w)
  · rw [decodeFor_clrflt op, illegalWord_iff_of_unindexed op (by decide)]
    exact decodeNone_refuses_iff w _
  · rw [decodeFor_status op, illegalWord_iff_of_unindexed op (by decide)]
    exact decodeNone_refuses_iff w _
  · rw [decodeFor_rdflags op, illegalWord_iff_of_unindexed op (by decide)]
    exact decodeNone_refuses_iff w _
  · rw [decodeFor_ack op, illegalWord_iff_of_unindexed op (by decide)]
    exact checkReserved_refuses_iff (clear_iff_and_mask (by decide) (by decide) w)

/-- A word decodes exactly when it is not in the list of R56. -/
theorem decodeFor_accepts_iff (n : Nat) (w : Word) : (∃ i, decodeFor n w = .ok i) ↔ ¬illegalWord n w := by
  rw [← decodeFor_refuses_iff]
  cases decodeFor n w <;> simp

/-! ## The match and the mask of R54 -/

/-- The mask of a row is the opcode field and the format's reserved bits. -/
theorem tableMask_eq (row : Instr) : tableMask row = place 28 (BitVec.allOnes 4) ||| reservedMask (opcodeOf row) := by
  cases row <;> simp only [tableMask, opcodeOf] <;> decide

/-- The match of a row is its opcode over zeros. -/
theorem tableMatch_eq (row : Instr) : tableMatch row = place 28 (opcodeOf row) := by
  cases row <;> simp only [tableMatch, opcodeOf] <;> decide

theorem field_and (lo k : Nat) (a b : Word) : field lo k (a &&& b) = field lo k a &&& field lo k b := by
  ext j hj
  simp [field]

/-- No reserved bit lies in the opcode. -/
theorem field_opcode_reservedMask (op : BitVec 4) : field 28 4 (reservedMask op) = 0 := by
  revert op
  decide

/-- A word matches a row exactly when it has the row's opcode and no reserved bit of its format is 1. -/
theorem matches_row_iff (w : Word) (row : Instr) :
    w &&& tableMask row = tableMatch row ↔ opcode w = opcodeOf row ∧ w &&& reservedMask (opcode w) = 0 := by
  have hcut : w &&& tableMask row = place 28 (opcode w) ||| (w &&& reservedMask (opcodeOf row)) := by
    rw [tableMask_eq, BitVec.and_or_distrib_left, and_place_allOnes]
    rfl
  have apart (op op' : BitVec 4) : place 28 op &&& reservedMask op' = 0 :=
    place_and_eq_zero 28 op _ (field_opcode_reservedMask op')
  rw [hcut, tableMatch_eq]
  refine ⟨fun h => ?_, fun ⟨hop, hclear⟩ => ?_⟩
  · have hop : opcode w = opcodeOf row := by
      simpa [field_and, field_opcode_reservedMask, field_place_same] using congrArg (field 28 4) h
    have hclear : w &&& reservedMask (opcodeOf row) = 0 := by
      simpa [or_and, apart, BitVec.and_assoc] using congrArg (· &&& reservedMask (opcodeOf row)) h
    exact ⟨hop, hop ▸ hclear⟩
  · rw [← hop, hclear]
    exact BitVec.or_zero

/-- Settles O3: a word decodes to a command of a row when it has the row's opcode and is not in the list of R56, and in a row,
whose opcode is assigned, that list says what the row's mask and `badIndex` say. -/
theorem decodeMatchesOpcodeTable : Obligations.DecodeMatchesOpcodeTable := by
  intro n w row
  have assigned : ¬(opcodeOf row = 0 ∨ opcodeOf row = 14 ∨ opcodeOf row = 15) := by
    cases row <;> simp [opcodeOf]
  calc (∃ i, opcodeOf i = opcodeOf row ∧ decodeFor n w = .ok i)
    _ ↔ opcode w = opcodeOf row ∧ ∃ i, decodeFor n w = .ok i :=
      ⟨fun ⟨i, hi, hd⟩ => ⟨(opcode_of_decodeFor hd).trans hi, i, hd⟩,
        fun ⟨hop, i, hd⟩ => ⟨i, (opcode_of_decodeFor hd).symm.trans hop, hd⟩⟩
    _ ↔ opcode w = opcodeOf row ∧ ¬illegalWord n w := and_congr_right' (decodeFor_accepts_iff n w)
    _ ↔ opcode w = opcodeOf row ∧ w &&& reservedMask (opcode w) = 0 ∧ ¬badIndex n w := by
      refine and_congr_right fun hop => ?_
      rw [illegalWord_iff]
      simp only [hop, assigned, false_or, not_or, ne_eq, not_not]
    _ ↔ w &&& tableMask row = tableMatch row ∧ ¬badIndex n w := by rw [matches_row_iff, and_assoc]

/-- Settles O5, by running the decoder on the thirteen words. -/
theorem specWordsDecode : Obligations.SpecWordsDecode := by
  unfold Obligations.SpecWordsDecode
  decide

end Sys2Proof
end

section
/-! PROOFS. The answer of a word at the command port: IllegalCommand for a word that is no command (60_exceptions.md R152), and
the three response forms (30_encoding.md R53). -/

namespace Sys2Proof.Machine

open Sys2Proof.Claims

/-! ## Refused words -/

/-- A word that is no command raises IllegalCommand (R55). -/
theorem commandStep_of_decodeFor_error {n : Nat} {run : Executor n} {w : Word} {e : DecodeError}
    (hd : decodeFor n w = .error e) (s : State n) : commandStep run w s = raiseIllegalCommand s := by
  simp only [commandStep, hd]

/-- Settles O4: the second part is the first for a word that waits at the command port, whose refusal raises IllegalCommand. -/
theorem illegalWordsAreExactlyTheList : Obligations.IllegalWordsAreExactlyTheList := by
  refine ⟨decodeFor_refuses_iff, fun s w rest hs hillegal => ?_⟩
  obtain ⟨e, he⟩ := (decodeFor_refuses_iff _ w).mpr hillegal
  have hstep : step s = raiseIllegalCommand (s.withInputs rest) :=
    (nextStep_of_inputs_cons hs).trans (commandStep_of_decodeFor_error he _)
  exact ⟨_, hstep, rfl, congrArg some errorWord_illegalCommand⟩

/-! ## Response words -/

theorem okWord_eq_place (d : Ticks) : okWord d = place 0 d := (BitVec.shiftLeft_zero _).symm

/-- The response of an accepted command holds its data in bits 15:0 and zeros above (R53). -/
theorem okWord_and_high (d : Ticks) : okWord d &&& 0xFFFF0000#32 = 0 := by
  rw [okWord_eq_place]
  exact place_and_eq_zero 0 d 0xFFFF0000#32 (by decide)

/-- Only the commands of opcodes 8, 11 and 12 answer data (R53). -/
theorem Accepts.data_eq_zero {n : Nat} {dest : BitVec 8} {c c' : Pwm n} {i : Instr} {d : Ticks}
    (h : Accepts dest c i c' d) (hrdduty : opcodeOf i ≠ 8) (hstatus : opcodeOf i ≠ 11) (hrdflags : opcodeOf i ≠ 12) :
    d = 0 := by
  cases h with
  | rdduty => exact absurd rfl hrdduty
  | status => exact absurd rfl hstatus
  | rdflags => exact absurd rfl hrdflags
  | _ => rfl

/-- Settles O13: a command port's answer is one of the three of `Answers`, and an accepted command whose opcode reads nothing
answers 0. -/
theorem responseForms : Obligations.ResponseForms := by
  intro s t w rest hs hstep
  have hhw := step_hardware hstep
  rw [hs, List.head?_cons] at hhw
  generalize t.response = response, t.pwm = c' at hhw
  cases hhw with
  | noCommand => exact ⟨_, rfl, .inr (.inl rfl), fun _ _ _ => .inr (.inl rfl)⟩
  | @command _ i _ r decoded answer =>
    refine ⟨r, rfl, ?_⟩
    cases answer with
    | rejected => exact ⟨.inl rfl, fun _ _ _ => .inl rfl⟩
    | illegal => exact ⟨.inr (.inl rfl), fun _ _ _ => .inr (.inl rfl)⟩
    | @accepted _ d haccepts =>
      refine ⟨.inr (.inr (okWord_and_high d)), fun h8 h11 h12 => .inr (.inr ?_)⟩
      have hop {op : BitVec 4} (hn : ¬cmdNext op s) : opcodeOf i ≠ op := fun h =>
        hn ⟨w, rest, hs, (opcode_of_decodeFor decoded).trans h⟩
      rw [haccepts.data_eq_zero (hop h8) (hop h11) (hop h12)]
      rfl

end Sys2Proof.Machine
end

section
/-! PROOFS. The carrier's commands as equations on the whole state (40_carrier.md R70 to R73): each is a check, and then a rejection
or one write. -/

namespace Sys2Proof.Machine

open Sys2Proof.Claims

/-! ## The two answers of a checked command (R53, R150) -/

theorem raiseConfigurationError_eq_rejected (s : State) : raiseConfigurationError s = .next (rejected s) := by
  unfold raiseConfigurationError raiseException
  rw [errorWord_configurationError]
  rfl

theorem respond_eq_accepted (d : Ticks) (c : Pwm Config.numChannels) (s : State) : respond d c s = .next (accepted d c s) := rfl

/-! ## The commands, by the outcome of their check -/

theorem exec_cfgcar_of_rejected {period : Ticks} {div : Divisor} {s : State} (h : cfgcarRejected period div s.pwm = true)
    (dir : Direction) (mode : SlopeMode) : exec (.cfgcar period dir mode div) s = .next (rejected s) :=
  (if_pos h).trans (raiseConfigurationError_eq_rejected s)

theorem exec_cfgcar_of_accepted {period : Ticks} {div : Divisor} {s : State} (h : ¬cfgcarRejected period div s.pwm = true)
    (dir : Direction) (mode : SlopeMode) :
    exec (.cfgcar period dir mode div) s = .next (accepted 0 (loadCarrier period dir mode div s.pwm) s) :=
  (if_neg h).trans (respond_eq_accepted 0 _ s)

theorem exec_cfgmax_of_rejected {value : Ticks} {s : State} (h : cfgmaxRejected value s.pwm = true) :
    exec (.cfgmax value) s = .next (rejected s) :=
  (if_pos h).trans (raiseConfigurationError_eq_rejected s)

theorem exec_cfgmax_of_accepted {value : Ticks} {s : State} (h : ¬cfgmaxRejected value s.pwm = true) :
    exec (.cfgmax value) s = .next (accepted 0 { s.pwm with maxDuty := value } s) :=
  (if_neg h).trans (respond_eq_accepted 0 _ s)

theorem exec_start_of_cfgerr {s : State} (h : s.pwm.cfgerr = true) : exec .start s = .next (rejected s) :=
  (if_pos h).trans (raiseConfigurationError_eq_rejected s)

theorem exec_start_of_not_cfgerr {s : State} (h : ¬s.pwm.cfgerr = true) :
    exec .start s = .next (accepted 0 { s.pwm with enabled := true } s) :=
  (if_neg h).trans (respond_eq_accepted 0 _ s)

theorem exec_stop (s : State) : exec .stop s = .next (accepted 0 { s.pwm with enabled := false } s) :=
  respond_eq_accepted 0 _ s

/-! ## What CFGCAR loads -/

/-- The start value of R82, as a condition on the direction. -/
theorem startValue_eq_ite (dir : Direction) (period : Ticks) : startValue dir period = if dir = .down then period else 0 := by
  cases dir <;> rfl

/-- `CFGCAR` leaves the counter where a cycle starts (R70, R82). -/
theorem loadCarrier_atCycleStart {n : Nat} (period : Ticks) (dir : Direction) (mode : SlopeMode) (div : Divisor) (c : Pwm n) :
    AtCycleStart (loadCarrier period dir mode div c) :=
  ⟨rfl, rfl⟩

/-! ## The obligations -/

/-- Settles O14: the five causes are the check of `CFGCAR`, and what it loads is the written-out state. -/
theorem cfgcarConfiguresOrRejects : Obligations.CfgcarConfiguresOrRejects := by
  intro period dir mode div s
  constructor
  · intro hcause
    exact exec_cfgcar_of_rejected ((cfgcarRejected_iff period div s.pwm).mpr hcause) dir mode
  · intro henabled hperiod hdiv hmax hdead
    have haccepted : ¬cfgcarRejected period div s.pwm = true := by
      rw [cfgcarRejected_iff]
      push Not
      exact ⟨by simp [henabled], hperiod, hdiv, hmax, hdead⟩
    rw [exec_cfgcar_of_accepted haccepted, loadCarrier, startValue_eq_ite]

/-- Settles O15: the three causes are the check of `CFGMAX`. -/
theorem cfgmaxSetsOrRejects : Obligations.CfgmaxSetsOrRejects := by
  intro value s
  constructor
  · intro hcause
    exact exec_cfgmax_of_rejected ((cfgmaxRejected_iff value s.pwm).mpr hcause)
  · intro henabled hperiod hduty
    refine exec_cfgmax_of_accepted ?_
    rw [cfgmaxRejected_iff]
    push Not
    exact ⟨by simp [henabled], hperiod, hduty⟩

/-- Settles O18: `START` by the value of `cfgerr`, its only check; `STOP` has none. -/
theorem startAndStopWriteEnabled : Obligations.StartAndStopWriteEnabled :=
  fun s => ⟨exec_start_of_cfgerr, fun h => exec_start_of_not_cfgerr (by simp [h]), exec_stop s⟩

end Sys2Proof.Machine
end

section
/-! PROOFS. The `CLK` step, alone and repeated (40_carrier.md R80, R86): it counts the prescaler up to the divisor, and then holds one
tick. -/

namespace Sys2Proof.Machine

variable {n : Nat}

/-- Settles O8: the clock at the head of the list is one `clk` of the hardware. -/
theorem clkStepCountsOrTicks : Obligations.ClkStepCountsOrTicks :=
  fun s rest hs => ⟨(s.withInputs rest).answer (clk s.pwm) none, nextStep_of_inputs_cons hs, rfl⟩

/-! ## One clock, by the case it falls under -/

theorem clk_of_stopped {c : Pwm n} (h : c.enabled = false) : clk c = c := if_pos h

theorem clk_of_divisor_reached {c : Pwm n} {v : Divisor} (he : c.enabled = true) (h : c.div.toNat ≤ v.toNat + 1) :
    clk { c with presc := v } = tick { c with presc := 0 } := by
  simp [clk, he, h]

theorem clk_of_divisor_not_reached {c : Pwm n} {v : Divisor} (he : c.enabled = true) (h : v.toNat + 1 < c.div.toNat) :
    clk { c with presc := v } = { c with presc := v + 1 } := by
  simp [clk, he, Nat.not_le.mpr h]

/-! ## Many clocks -/

theorem afterClks_succ (k : Nat) (c : Pwm n) : afterClks (k + 1) c = clk (afterClks k c) :=
  Function.iterate_succ_apply' clk k c

theorem afterClks_of_stopped {c : Pwm n} (h : c.enabled = false) (k : Nat) : afterClks k c = c :=
  Function.iterate_fixed (clk_of_stopped h) k

/-- Below the divisor the 10-bit prescaler does not wrap. -/
theorem toNat_ofNat_of_lt_div {v : Nat} {div : Divisor} (h : v < div.toNat) : (BitVec.ofNat 10 v).toNat = v := by
  rw [BitVec.toNat_ofNat]
  omega

/-- Until the divisor is reached, each clock adds 1 to the prescaler and does nothing else (R80). -/
theorem afterClks_counts {c : Pwm n} (he : c.enabled = true) (j : Nat) (hj : c.presc.toNat + j < c.div.toNat) :
    afterClks j c = { c with presc := BitVec.ofNat 10 (c.presc.toNat + j) } := by
  induction j with
  | zero => simp [afterClks]
  | succ j ih =>
    have hbelow : c.presc.toNat + j < c.div.toNat := by omega
    have hadd : BitVec.ofNat 10 (c.presc.toNat + j) + 1 = BitVec.ofNat 10 (c.presc.toNat + (j + 1)) :=
      (BitVec.ofNat_add (c.presc.toNat + j) 1).symm
    rw [afterClks_succ, ih hbelow, clk_of_divisor_not_reached he (by rwa [toNat_ofNat_of_lt_div hbelow]), hadd]

/-- The clock that reaches the divisor holds the first tick (R80). -/
theorem afterClks_first_tick {c : Pwm n} (he : c.enabled = true) (hlt : c.presc.toNat < c.div.toNat) :
    afterClks (c.div.toNat - c.presc.toNat) c = tick { c with presc := 0 } := by
  obtain ⟨j, hj⟩ := Nat.exists_eq_add_one.mpr (Nat.sub_pos_of_lt hlt)
  have hbelow : c.presc.toNat + j < c.div.toNat := by omega
  have hlast : c.div.toNat ≤ (BitVec.ofNat 10 (c.presc.toNat + j)).toNat + 1 := by
    rw [toNat_ofNat_of_lt_div hbelow]
    omega
  rw [hj, afterClks_succ, afterClks_counts he j hbelow, clk_of_divisor_reached he hlast]

/-- Settles O33: the clocks before the divisor is reached, the clock that reaches it, and the stopped carrier. -/
theorem firstTickAfterPrescaler : Obligations.FirstTickAfterPrescaler :=
  fun _ _ =>
    ⟨fun he hlt => ⟨fun j hj => afterClks_counts he j (by omega), afterClks_first_tick he hlt⟩, afterClks_of_stopped⟩

end Sys2Proof.Machine
end

section
/-! PROOFS. One tick, field by field (40_carrier.md R81): `tick_writes` read at each field, with what parts 3 to 5 see said through the
state the tick leaves. -/

namespace Sys2Proof.Machine

variable {n : Nat}

theorem tick_matchFlag (c : Pwm n) (i : Fin n) :
    (tick c).matchFlag[i] = (c.matchFlag[i] || (decide ((tick c).cnt = (tick c).active[i]) && !(tick c).phase)) := by
  simp [tick_writes]

theorem tick_raw (c : Pwm n) (i : Fin n) : (tick c).raw[i] = decide ((tick c).cnt < (tick c).active[i]) := by
  simp [tick_writes, tickRaw]

/-- A dead-time counter that is not reloaded runs down to 0 and stays there (R107). -/
theorem deadTimeNext_eq (c : Pwm n) (p : Fin n) (r : Bool) :
    deadTimeNext c p r =
      if r ≠ c.raw[p] then (if r then c.dtHigh[p] else c.dtLow[p])
      else if c.dtCnt[p] = 0 then 0 else c.dtCnt[p] - 1 := by
  unfold deadTimeNext
  by_cases hzero : c.dtCnt[p] = 0
  · simp [hzero]
  · have hpos : 0 < c.dtCnt[p] := by bv_omega
    rw [if_pos hpos, if_neg hzero]

theorem tick_dtCnt (c : Pwm n) (p : Fin n) : (tick c).dtCnt[p] = deadTimeNext c p (tick c).raw[p] := by
  simp [tick_writes]

theorem tick_fstate (c : Pwm n) :
    (tick c).fstate = if boundaryNext c = true ∧ c.restart = .cycleByCycle then .armed else c.fstate := by
  rw [tick_writes]

/-- The release at a boundary sees the `fstate` just written (R128). -/
theorem tick_force (c : Pwm n) :
    (tick c).force = if boundaryNext c = true ∧ (tick c).fstate = .armed then false else c.force := by
  have harmed (hb : boundaryNext c = true) : (tick c).fstate = .armed ↔ c.restart = .cycleByCycle ∨ c.fstate = .armed := by
    rw [tick_fstate]
    by_cases hr : c.restart = .cycleByCycle <;> simp [hb, hr]
  rw [if_congr (and_congr_right harmed) rfl rfl, tick_writes]

/-- Settles O29: the fields a tick computes have a lemma each; of the others `tick_writes` says that they stay. -/
theorem tickFieldByField : Obligations.TickFieldByField := by
  intro n c
  have hdtCnt (p : Fin n) := (tick_dtCnt c p).trans (deadTimeNext_eq c p _)
  refine ⟨?cnt, ?phase, ?active, ?ovf, tick_matchFlag c, tick_raw c, hdtCnt, tick_fstate c, tick_force c, ?frame⟩
  case frame => simp only [tick_writes, and_self]
  case active => rw [tick_writes, tickActive]
  all_goals rw [tick_writes]

end Sys2Proof.Machine
end

section
/-! PROOFS. The counter sequence (40_carrier.md R82 to R84): `Advance()` on natural numbers, the position of the counter in its cycle,
and what a tick does to that position. -/

namespace Sys2Proof.Machine

open Sys2Proof.Claims

variable {n : Nat}

/-! ## `Advance()` on natural numbers (R84) -/

theorem toNat_add_one_of_lt {a b : Ticks} (h : a.toNat < b.toNat) : (a + 1).toNat = a.toNat + 1 := by bv_omega

theorem toNat_sub_one_of_pos {a : Ticks} (h : 0 < a.toNat) : (a - 1).toNat = a.toNat - 1 := by bv_omega

theorem advanceSingleDown_eq_naturalAdvance (c : Pwm n) :
    ((advanceSingleDown c).1.cnt.toNat, (advanceSingleDown c).1.phase, (advanceSingleDown c).2) =
      naturalAdvance .single .down c.period.toNat c.cnt.toNat c.phase := by
  have hend : c.cnt = 0 ↔ c.cnt.toNat = 0 := BitVec.toNat_inj.symm
  simp only [advanceSingleDown, naturalAdvance, hend]
  split_ifs with h0
  · rfl
  · simp only [toNat_sub_one_of_pos (Nat.pos_of_ne_zero h0)]

theorem advanceSingleUp_eq_naturalAdvance {c : Pwm n} (hle : c.cnt.toNat ≤ c.period.toNat) :
    ((advanceSingleUp c).1.cnt.toNat, (advanceSingleUp c).1.phase, (advanceSingleUp c).2) =
      naturalAdvance .single .up c.period.toNat c.cnt.toNat c.phase := by
  have hend : c.cnt = c.period ↔ c.cnt.toNat = c.period.toNat := BitVec.toNat_inj.symm
  simp only [advanceSingleUp, naturalAdvance, hend]
  split_ifs with hperiod
  · rfl
  · simp only [toNat_add_one_of_lt (Nat.lt_of_le_of_ne hle hperiod)]

/-- On the way back up the counter is below `period`, so its count does not wrap. -/
theorem advanceDualDown_eq_naturalAdvance {c : Pwm n} (hp : 1 ≤ c.period.toNat)
    (hback : c.phase = true → c.cnt.toNat < c.period.toNat) :
    ((advanceDualDown c).1.cnt.toNat, (advanceDualDown c).1.phase, (advanceDualDown c).2) =
      naturalAdvance .dual .down c.period.toNat c.cnt.toNat c.phase := by
  have hout : 0 < c.cnt ↔ 0 < c.cnt.toNat := BitVec.lt_def
  have hend : c.cnt + 1 = c.period ↔ (c.cnt + 1).toNat = c.period.toNat := BitVec.toNat_inj.symm
  simp only [advanceDualDown, naturalAdvance, hout, hend]
  by_cases hfirst : c.phase = false ∧ 0 < c.cnt.toNat
  · simp only [if_pos hfirst, toNat_sub_one_of_pos hfirst.2]
  · have hlt : c.cnt.toNat < c.period.toNat := by
      cases hphase : c.phase
      · have h0 : ¬0 < c.cnt.toNat := fun h => hfirst ⟨hphase, h⟩
        omega
      · exact hback hphase
    simp only [if_neg hfirst, toNat_add_one_of_lt hlt]
    split_ifs <;> simp only [toNat_add_one_of_lt hlt]

/-- On the way back down the counter is above 0, so its count does not wrap. -/
theorem advanceDualUp_eq_naturalAdvance {c : Pwm n} (hp : 1 ≤ c.period.toNat) (hback : c.phase = true → 0 < c.cnt.toNat) :
    ((advanceDualUp c).1.cnt.toNat, (advanceDualUp c).1.phase, (advanceDualUp c).2) =
      naturalAdvance .dual .up c.period.toNat c.cnt.toNat c.phase := by
  have hout : c.cnt < c.period ↔ c.cnt.toNat < c.period.toNat := BitVec.lt_def
  have hend : c.cnt - 1 = 0 ↔ (c.cnt - 1).toNat = 0 := BitVec.toNat_inj.symm
  simp only [advanceDualUp, naturalAdvance, hout, hend]
  by_cases hfirst : c.phase = false ∧ c.cnt.toNat < c.period.toNat
  · simp only [if_pos hfirst, toNat_add_one_of_lt hfirst.2]
  · have hpos : 0 < c.cnt.toNat := by
      cases hphase : c.phase
      · have hfar : ¬c.cnt.toNat < c.period.toNat := fun h => hfirst ⟨hphase, h⟩
        omega
      · exact hback hphase
    simp only [if_neg hfirst, toNat_sub_one_of_pos hpos]
    split_ifs <;> simp only [toNat_sub_one_of_pos hpos]

/-- In range the 16-bit count is the count on natural numbers, in each of the four sequences of R82. -/
theorem advance_eq_naturalAdvance {c : Pwm n} (h : CounterInRange c.mode c.period c.cnt c.phase) (hp : 1 ≤ c.period.toNat) :
    ((advance c).1.cnt.toNat, (advance c).1.phase, boundaryNext c) =
      naturalAdvance c.mode c.direction c.period.toNat c.cnt.toNat c.phase := by
  obtain ⟨hle, -, hdual⟩ := h
  unfold boundaryNext
  cases hm : c.mode <;> cases hd : c.direction
  case single.down =>
    rw [advance_of_single_down hm hd]
    exact advanceSingleDown_eq_naturalAdvance c
  case single.up =>
    rw [advance_of_single_up hm hd]
    exact advanceSingleUp_eq_naturalAdvance hle
  case dual.down =>
    rw [advance_of_dual_down hm hd]
    exact advanceDualDown_eq_naturalAdvance hp fun hphase => (hdual hm hphase).2
  case dual.up =>
    rw [advance_of_dual_up hm hd]
    exact advanceDualUp_eq_naturalAdvance hp fun hphase => (hdual hm hphase).1

/-- Settles O30: the invariants put the counter in range, and there it counts on natural numbers and stays. -/
theorem counterNeverWraps : Obligations.CounterNeverWraps :=
  fun _ _ h =>
    ⟨advance_eq_naturalAdvance h.counterInRange h.period_pos, (advance_counterInRange h.counterInRange h.period_pos).cnt_le⟩

/-! ## The position of the counter in its cycle (R82) -/

/-- The counter stands where the table of R82 has it `m` ticks into a cycle. -/
structure AtPosition (c : Pwm n) (m : Nat) : Prop where
  lt_cycle : m < cycleLength c.mode c.period
  cnt_eq : c.cnt.toNat = cycleValue c.direction c.period.toNat m
  phase_eq : c.phase = decide (c.period.toNat < m)

theorem distanceFromStart_of_le {period m : Nat} (h : m ≤ period) : distanceFromStart period m = m := if_pos h

/-- At the far end both slopes agree. -/
theorem distanceFromStart_of_ge {period m : Nat} (h : period ≤ m) : distanceFromStart period m = 2 * period - m := by
  unfold distanceFromStart
  split <;> omega

theorem cycleValue_le (dir : Direction) (period m : Nat) : cycleValue dir period m ≤ period := by
  cases dir
  · exact Nat.sub_le ..
  · rcases Nat.le_total m period with h | h
    · rwa [cycleValue, distanceFromStart_of_le h]
    · rw [cycleValue, distanceFromStart_of_ge h]
      omega

theorem cycleLength_pos {mode : SlopeMode} {period : Ticks} (hp : 1 ≤ period.toNat) : 0 < cycleLength mode period := by
  cases mode <;> simp only [cycleLength] <;> omega

/-- The start of a cycle is position 0. -/
theorem AtCycleStart.atPosition {c : Pwm n} (h : AtCycleStart c) (hp : 1 ≤ c.period.toNat) : AtPosition c 0 := by
  obtain ⟨hcnt, hphase⟩ := h
  refine ⟨cycleLength_pos hp, ?_, by simp [hphase]⟩
  rw [hcnt]
  cases c.direction <;> simp [startValue, cycleValue, distanceFromStart]

theorem AtPosition.counterInRange {c : Pwm n} {m : Nat} (h : AtPosition c m) : CounterInRange c.mode c.period c.cnt c.phase := by
  obtain ⟨hm, hcnt, hphase⟩ := h
  constructor
  · rw [hcnt]
    exact cycleValue_le ..
  · intro hsingle
    simp only [hsingle, cycleLength] at hm
    rw [hphase, decide_eq_false_iff_not]
    omega
  · intro hdual hback
    simp only [hdual, cycleLength] at hm
    rw [hphase, decide_eq_true_iff] at hback
    rw [hcnt]
    cases c.direction <;> simp only [cycleValue, distanceFromStart_of_ge hback.le] <;> omega

/-- On the way out the counter moves one away from its start value (R82). -/
theorem naturalAdvance_outward (mode : SlopeMode) (dir : Direction) {period m : Nat} (h : m < period) :
    naturalAdvance mode dir period (cycleValue dir period m) false = (cycleValue dir period (m + 1), false, false) := by
  have hhere := distanceFromStart_of_le h.le
  have hnext : distanceFromStart period (m + 1) = m + 1 := distanceFromStart_of_le h
  cases dir
  · have hpos : 0 < period - m := by omega
    cases mode <;> simp [naturalAdvance, cycleValue, hhere, hnext, hpos, hpos.ne', Nat.sub_sub]
  · cases mode <;> simp [naturalAdvance, cycleValue, hhere, hnext, h, h.ne]

/-- In single-slope mode the far end is the last position (R82). -/
theorem naturalAdvance_single_end (dir : Direction) (period : Nat) :
    naturalAdvance .single dir period (cycleValue dir period period) false = (cycleValue dir period 0, false, true) := by
  cases dir <;> simp [naturalAdvance, cycleValue, distanceFromStart]

/-- In dual-slope mode the counter moves back from the far end, up to the boundary at the start value (R82). -/
theorem naturalAdvance_dual_back (dir : Direction) {period m : Nat} (hfar : period ≤ m) (hm : m < 2 * period) :
    naturalAdvance .dual dir period (cycleValue dir period m) (decide (period < m)) =
      if m + 1 = 2 * period then (cycleValue dir period 0, false, true) else (cycleValue dir period (m + 1), true, false) := by
  have hhere := distanceFromStart_of_ge hfar
  have hnext : distanceFromStart period (m + 1) = 2 * period - (m + 1) := distanceFromStart_of_ge (by omega)
  have hstart : distanceFromStart period 0 = 0 := distanceFromStart_of_le (Nat.zero_le _)
  cases dir
  · have hback : ¬(decide (period < m) = false ∧ 0 < period - (2 * period - m)) := by
      rw [decide_eq_false_iff_not]
      omega
    have hend : period - (2 * period - m) + 1 = period ↔ m + 1 = 2 * period := by omega
    simp only [naturalAdvance, cycleValue, hhere, hnext, hstart, if_neg hback, hend]
    split_ifs <;> simp <;> omega
  · have hback : ¬(decide (period < m) = false ∧ 2 * period - m < period) := by
      rw [decide_eq_false_iff_not]
      omega
    have hend : 2 * period - m - 1 = 0 ↔ m + 1 = 2 * period := by omega
    simp only [naturalAdvance, cycleValue, hhere, hnext, hstart, if_neg hback, hend]
    split_ifs <;> simp <;> omega

/-- Before the last position of a cycle the count goes to the next one (R82). -/
theorem naturalAdvance_next {mode : SlopeMode} {period : Ticks} {m : Nat} (dir : Direction)
    (hm : m + 1 < cycleLength mode period) :
    naturalAdvance mode dir period.toNat (cycleValue dir period.toNat m) (decide (period.toNat < m)) =
      (cycleValue dir period.toNat (m + 1), decide (period.toNat < m + 1), false) := by
  rcases Nat.lt_or_ge m period.toNat with hout | hfar
  · rw [decide_eq_false (by omega), decide_eq_false (by omega), naturalAdvance_outward mode dir hout]
  · cases mode <;> simp only [cycleLength] at hm
    case single => omega
    case dual =>
      have hback : period.toNat < m + 1 := by omega
      rw [naturalAdvance_dual_back dir hfar (by omega), if_neg (by omega), decide_eq_true hback]

/-- From the last position of a cycle the count goes back to the first; this is the boundary (R82, R83). -/
theorem naturalAdvance_last {mode : SlopeMode} {period : Ticks} {m : Nat} (dir : Direction)
    (hm : m + 1 = cycleLength mode period) :
    naturalAdvance mode dir period.toNat (cycleValue dir period.toNat m) (decide (period.toNat < m)) =
      (cycleValue dir period.toNat 0, false, true) := by
  cases mode <;> simp only [cycleLength] at hm
  case single =>
    obtain rfl : m = period.toNat := by omega
    rw [decide_eq_false (lt_irrefl _), naturalAdvance_single_end]
  case dual => rw [naturalAdvance_dual_back dir (by omega) (by omega), if_pos hm]

/-- A count takes the counter to the next position, modulo the length of the cycle; it is a boundary when that position is 0. -/
theorem AtPosition.advance_eq {c : Pwm n} {m : Nat} (h : AtPosition c m) (hp : 1 ≤ c.period.toNat) :
    ((advance c).1.cnt.toNat, (advance c).1.phase, boundaryNext c) =
      (cycleValue c.direction c.period.toNat ((m + 1) % cycleLength c.mode c.period),
        decide (c.period.toNat < (m + 1) % cycleLength c.mode c.period),
        decide ((m + 1) % cycleLength c.mode c.period = 0)) := by
  rw [advance_eq_naturalAdvance h.counterInRange hp, h.cnt_eq, h.phase_eq]
  have hle : m + 1 ≤ cycleLength c.mode c.period := h.lt_cycle
  rcases hle.lt_or_eq with hnext | hlast
  · rw [Nat.mod_eq_of_lt hnext, naturalAdvance_next c.direction hnext]
    rfl
  · rw [naturalAdvance_last c.direction hlast, hlast, Nat.mod_self]
    rfl

theorem AtPosition.boundaryNext_iff {c : Pwm n} {m : Nat} (h : AtPosition c m) (hp : 1 ≤ c.period.toNat) :
    boundaryNext c = true ↔ (m + 1) % cycleLength c.mode c.period = 0 := by
  have hb := congrArg (fun x => x.2.2) (h.advance_eq hp)
  dsimp only at hb
  rw [hb, decide_eq_true_iff]

theorem AtPosition.tick_next {c : Pwm n} {m : Nat} (h : AtPosition c m) (hp : 1 ≤ c.period.toNat) :
    AtPosition (tick c) ((m + 1) % cycleLength c.mode c.period) := by
  obtain ⟨hcnt, hphase, -⟩ := by simpa only [Prod.mk.injEq] using h.advance_eq hp
  rw [tick_writes]
  exact ⟨Nat.mod_lt _ (cycleLength_pos hp), hcnt, hphase⟩

/-! ## Many ticks -/

theorem afterTicks_succ (k : Nat) (c : Pwm n) : afterTicks (k + 1) c = tick (afterTicks k c) :=
  Function.iterate_succ_apply' tick k c

/-- Ticks leave the configuration of the carrier alone (R81). -/
theorem afterTicks_config (k : Nat) (c : Pwm n) :
    (afterTicks k c).mode = c.mode ∧ (afterTicks k c).direction = c.direction ∧ (afterTicks k c).period = c.period := by
  induction k with
  | zero => exact ⟨rfl, rfl, rfl⟩
  | succ k ih => rwa [afterTicks_succ, tick_writes]

/-- `k` ticks after the start of a cycle the counter is at position `k mod cycle_len` (R82, R83). -/
theorem AtCycleStart.atPosition_afterTicks {c : Pwm n} (h : AtCycleStart c) (hp : 1 ≤ c.period.toNat) (k : Nat) :
    AtPosition (afterTicks k c) (k % cycleLength c.mode c.period) := by
  induction k with
  | zero => simpa [afterTicks] using h.atPosition hp
  | succ k ih =>
    obtain ⟨hmode, -, hperiod⟩ := afterTicks_config k c
    have hnext := ih.tick_next (by rwa [hperiod])
    rwa [hmode, hperiod, Nat.mod_add_mod, ← afterTicks_succ] at hnext

/-- Settles O31: the position after `k` ticks, read at the counter and at the phase. -/
theorem counterSequence : Obligations.CounterSequence := by
  intro n c k hp hstart
  obtain ⟨-, hdir, hperiod⟩ := afterTicks_config k c
  have hpos := hstart.atPosition_afterTicks hp k
  exact ⟨by rw [hpos.cnt_eq, hdir, hperiod], by rw [hpos.phase_eq, hperiod]⟩

/-- Settles O32: an accepted `CFGCAR` loads the start of a cycle, and from there tick `k + 1` is a boundary exactly when the
position after it is 0. -/
theorem boundaryEveryCycleLength : Obligations.BoundaryEveryCycleLength := by
  constructor
  · intro period dir mode div s t hexec hresponse
    obtain ⟨r, hr, hanswers⟩ := exec_answers hexec
    obtain ⟨_, haccepts⟩ := hanswers.accepted_of_zero (Option.some.inj (hr.symm.trans hresponse))
    generalize t.pwm = c' at haccepts
    cases haccepts
    exact loadCarrier_atCycleStart ..
  · intro n c k hp hstart
    obtain ⟨hmode, -, hperiod⟩ := afterTicks_config k c
    rw [(hstart.atPosition_afterTicks hp k).boundaryNext_iff (by rwa [hperiod]), hmode, hperiod, Nat.mod_add_mod]

end Sys2Proof.Machine
end

section
/-! PROOFS. The duty registers' commands as equations on the whole state (41_compare.md R90, R91). -/

namespace Sys2Proof.Machine

open Sys2Proof.Claims

theorem raiseIllegalCommand_eq_illegal (s : State) : raiseIllegalCommand s = .next (illegal s) := by
  unfold raiseIllegalCommand raiseException
  rw [errorWord_illegalCommand]
  rfl

theorem exec_wrduty_of_absent {idx : Index} (h : Config.numChannels ≤ idx.toNat) (value : Ticks) (s : State) :
    exec (.wrduty idx value) s = .next (illegal s) := by
  simp only [exec, execWrduty, channelOf_of_ge h, raiseIllegalCommand_eq_illegal]

/-- `WRDUTY` of a channel that exists is its check, then a rejection or its one write (R90). -/
theorem exec_wrduty_of_present {idx : Index} (h : idx.toNat < Config.numChannels) (value : Ticks) (s : State) :
    exec (.wrduty idx value) s =
      if s.pwm.maxDuty < value then .next (rejected s)
      else .next (accepted 0 (writePending ⟨idx.toNat, h⟩ value s.pwm) s) := by
  simp only [exec, execWrduty, channelOf_of_lt h, raiseConfigurationError_eq_rejected, respond_eq_accepted]

theorem exec_rdduty_of_absent {idx : Index} (h : Config.numChannels ≤ idx.toNat) (sel : DutySel) (s : State) :
    exec (.rdduty idx sel) s = .next (illegal s) := by
  simp only [exec, execRdduty, channelOf_of_ge h, raiseIllegalCommand_eq_illegal]

theorem exec_rdduty_of_present {idx : Index} (h : idx.toNat < Config.numChannels) (sel : DutySel) (s : State) :
    exec (.rdduty idx sel) s = .next (accepted (readDuty sel ⟨idx.toNat, h⟩ s.pwm) s.pwm s) := by
  simp only [exec, execRdduty, channelOf_of_lt h, respond_eq_accepted]

/-- Settles O19: by whether the channel exists and whether the value is above the maximum. -/
theorem wrdutyWritesPendingOrRejects : Obligations.WrdutyWritesPendingOrRejects := by
  intro idx value s
  refine ⟨fun habsent => exec_wrduty_of_absent habsent value s, fun h habove => ?_, fun h hle => ?_⟩
  · rw [exec_wrduty_of_present h, if_pos (BitVec.lt_def.mpr habove)]
  · rw [exec_wrduty_of_present h, if_neg (BitVec.not_lt.mpr (BitVec.le_def.mpr hle))]
    rfl

/-- Settles O20: by whether the channel exists, for both selections. -/
theorem rddutyReads : Obligations.RddutyReads :=
  fun _ s =>
    ⟨fun habsent sel => exec_rdduty_of_absent habsent sel s,
      fun h => ⟨exec_rdduty_of_present h .active s, exec_rdduty_of_present h .pending s⟩⟩

end Sys2Proof.Machine
end

section
/-! PROOFS. Double buffering (41_compare.md R93, R95): who writes `active` and who writes `pending`, for one step and then along a
run. -/

namespace Sys2Proof.Machine

open Sys2Proof.Claims

variable {n : Nat} {dest : BitVec 8} {c c' : Pwm n} {x : Option Stimulus} {r : Option Word}

/-! ## `active` (R93) -/

theorem tick_active (c : Pwm n) : (tick c).active = tickActive c := by rw [tick_writes]

/-- A clock writes `active` only if it holds a boundary tick. -/
theorem clk_active (c : Pwm n) :
    (clk c).active = if ticksNext c = true ∧ boundaryNext c = true then c.pending else c.active := by
  rcases clk_cases c with ⟨hstopped, hc⟩ | ⟨htick, -, hc⟩ | ⟨-, htick, -, hc⟩ <;> rw [hc]
  · simp [ticksNext, hstopped]
  · rw [tick_active, tickActive_presc]
    simp [htick, tickActive]
  · simp [htick]

/-- The comparison of a tick sees what the tick has just promoted (R81, R92). -/
theorem clk_raw (h : ticksNext c = true) (i : Fin n) : (clk c).raw[i] = decide ((clk c).cnt < (clk c).active[i]) := by
  rcases clk_cases c with ⟨hstopped, -⟩ | ⟨-, -, hc⟩ | ⟨-, hno, -⟩
  · simp [ticksNext, hstopped] at h
  · rw [hc, tick_raw]
  · simp [hno] at h

/-- A `CLK` step is one `clk` of the hardware. -/
theorem step_clk_pwm {s t : State} {rest : List Stimulus} (hs : s.inputs = .clk :: rest) (hstep : step s = .next t) :
    t.pwm = clk s.pwm := by
  cases (nextStep_of_inputs_cons hs).symm.trans hstep
  rfl

theorem step_reset_pwm {s t : State} (hr : resetNext s) (hstep : step s = .next t) : t.pwm = Pwm.reset Config.numChannels := by
  obtain ⟨rest, hs⟩ := hr
  cases (nextStep_of_inputs_cons hs).symm.trans hstep
  rfl

theorem step_boundary_active {s t : State} (hb : boundaryClk s) (hstep : step s = .next t) :
    t.pwm.active = s.pwm.pending := by
  obtain ⟨⟨rest, hs⟩, hboundary⟩ := hb
  rw [step_clk_pwm hs hstep, clk_active, if_pos hboundary]

/-- Nothing but a boundary's clock and `RESET` writes `active` (R93): the writers column, and a step without a stimulus. -/
theorem step_active_unchanged {s t : State} (hb : ¬boundaryClk s) (hr : ¬resetNext s) (hstep : step s = .next t) :
    t.pwm.active = s.pwm.active := by
  cases hs : s.inputs with
  | nil =>
    simp only [step, nextStep, hs] at hstep
    cases hstep
    rfl
  | cons x rest =>
    have hx : x ≠ .reset := fun h => hr ⟨rest, h ▸ hs⟩
    obtain ⟨-, -, -, -, -, -, -, -, hactive, -⟩ := fieldsChangeOnlyByTheirWriters s t x rest hs hstep hx
    exact hactive hb

/-- Settles O36: the boundary's clock promotes and then compares, `RESET` writes 0, and nothing else writes `active`. -/
theorem promotionOnlyAtBoundary : Obligations.PromotionOnlyAtBoundary := by
  intro s t hstep
  refine ⟨fun hb => ?boundary, fun hr => ?reset, fun hb hr => step_active_unchanged hb hr hstep⟩
  case boundary =>
    have hactive := step_boundary_active hb hstep
    obtain ⟨⟨rest, hs⟩, htick, -⟩ := hb
    exact ⟨hactive, fun i => by rw [← hactive, step_clk_pwm hs hstep, clk_raw htick]⟩
  case reset =>
    rw [step_reset_pwm hr hstep]
    rfl

/-! ## `pending` (R90, R95) -/

theorem clk_pending (c : Pwm n) : (clk c).pending = c.pending := by
  rcases clk_cases c with ⟨-, hc⟩ | ⟨-, -, hc⟩ | ⟨-, -, -, hc⟩ <;> rw [hc]
  rw [tick_writes]

/-- The only index that names a channel is `indexOf` of it. -/
theorem indexOf_eq {p : Fin n} {idx : Index} (h : p.val = idx.toNat) : indexOf p = idx := by
  rw [indexOf, h, BitVec.ofNat_toNat, BitVec.setWidth_eq]

/-- An accepted `WRDUTY` leaves its value in the `pending` of its channel (R90). -/
theorem Accepts.wrduty_pending {idx : Index} {v d : Ticks} (ha : Accepts dest c (.wrduty idx v) c' d) {p : Fin n}
    (hp : p.val = idx.toNat) : c'.pending[p] = v := by
  cases ha with
  | wrduty q index =>
    obtain rfl : q = p := Fin.ext (index.trans hp.symm)
    simp

/-- An accepted command leaves `pending[p]` alone unless it is a `WRDUTY` of that channel, which answers 0 (R90). -/
theorem Accepts.pending_channel {i : Instr} {d : Ticks} (ha : Accepts dest c i c' d) (p : Fin n) :
    c'.pending[p] = c.pending[p] ∨ ∃ v, i = .wrduty (indexOf p) v ∧ d = 0 := by
  cases ha with
  | @wrduty idx v q index =>
    by_cases hqp : q = p
    · subst hqp
      exact .inr ⟨v, by rw [indexOf_eq index], rfl⟩
    · exact .inl (by simp [Fin.val_ne_of_ne hqp])
  | fire => exact .inl (by rw [trigger_writes])
  | _ => exact .inl rfl

/-- A step leaves `pending[p]` alone unless it is a `RESET` or an accepted `WRDUTY` of that channel (R95). -/
theorem HardwareStep.pending_unchanged (hs : HardwareStep dest c x c' r) (p : Fin n) (hreset : x ≠ some .reset)
    (hwrite : ∀ v, ¬(x = some (.cmd (encode (.wrduty (indexOf p) v))) ∧ r = some 0x00000000#32)) :
    c'.pending[p] = c.pending[p] := by
  cases hs with
  | idle => rfl
  | @command w i _ r decoded answer =>
    cases answer with
    | accepted ha =>
      rcases ha.pending_channel p with hsame | ⟨v, rfl, rfl⟩
      · exact hsame
      · obtain ⟨hword, -⟩ := encodeOfDecode _ _ _ decoded
        exact absurd ⟨by rw [hword], rfl⟩ (hwrite v)
    | rejected => rfl
    | illegal => rfl
  | noCommand => rfl
  | clk => rw [clk_pending]
  | event ch => rw [trigger_writes]
  | reset => exact absurd rfl hreset

theorem resetNext_iff (s : State) : resetNext s ↔ s.inputs.head? = some .reset := by
  rw [resetNext, List.head?_eq_some_iff]

theorem writesDuty_iff (i : Fin Config.numChannels) (v : Ticks) (s t : State) :
    writesDuty i v s t ↔
      s.inputs.head? = some (.cmd (encode (.wrduty (indexOf i) v))) ∧ t.response = some 0x00000000#32 := by
  rw [writesDuty, exists_and_right, List.head?_eq_some_iff]

theorem indexOf_toNat (i : Fin Config.numChannels) : (indexOf i).toNat = i.val := by
  revert i
  decide

/-- The word of a `WRDUTY` of a channel that exists decodes to it (R55). -/
theorem decodeFor_encode_wrduty (i : Fin Config.numChannels) (v : Ticks) :
    decodeFor Config.numChannels (encode (.wrduty (indexOf i) v)) = .ok (.wrduty (indexOf i) v) :=
  decodeOfEncode _ _ (decide_eq_true (by rw [indexOf_toNat]; exact i.isLt))

/-- A step that is an accepted `WRDUTY` of channel `i` leaves its value in `pending[i]` (R90). -/
theorem step_pending_of_writesDuty {i : Fin Config.numChannels} {v : Ticks} {s t : State} (hw : writesDuty i v s t)
    (hstep : step s = .next t) : t.pwm.pending[i] = v := by
  obtain ⟨rest, hs, hresponse⟩ := hw
  have hexec : exec (.wrduty (indexOf i) v) (s.withInputs rest) = .next t :=
    (nextStep_of_command hs (decodeFor_encode_wrduty i v)).symm.trans hstep
  obtain ⟨r, hr, hanswers⟩ := exec_answers hexec
  obtain ⟨_, haccepts⟩ := hanswers.accepted_of_zero (Option.some.inj (hr.symm.trans hresponse))
  exact haccepts.wrduty_pending (indexOf_toNat i).symm

/-! ## Along a run (R95) -/

theorem active_eq_of_quietRun {s t : State} (h : QuietRun s t) : t.pwm.active = s.pwm.active := by
  induction h with
  | refl => rfl
  | tail _ hb hr hstep ih => exact (step_active_unchanged hb hr hstep).trans ih

/-- `pending[i]` is the last value written, or the first one if none was (R95). -/
theorem pending_eq_of_lastWrite {i : Fin Config.numChannels} {s t : State} {o : Option Ticks} (h : LastWrite i s t o) :
    t.pwm.pending[i] = o.getD s.pwm.pending[i] := by
  induction h with
  | refl => rfl
  | reset _ hstep hr =>
    rw [step_reset_pwm hr hstep]
    simp [Pwm.reset]
  | write _ hstep hw => exact step_pending_of_writesDuty hw hstep
  | @other t _ _ _ hstep hr hw ih =>
    have hsame := (step_hardware hstep).pending_unchanged i ((resetNext_iff t).not.mp hr)
      fun v => (writesDuty_iff i v t _).not.mp (hw v)
    exact hsame.trans ih

/-- Settles O37: between boundaries nothing writes `active`, a boundary promotes, and `pending` follows its writers step by step. -/
theorem doubleBufferingLaw : Obligations.DoubleBufferingLaw :=
  ⟨fun _ _ => active_eq_of_quietRun, fun _ _ => step_boundary_active, fun _ _ _ _ => pending_eq_of_lastWrite⟩

end Sys2Proof.Machine
end

section
/-! PROOFS. The range law (41_compare.md R98): the invariants of 10_state.md R24 hold in every reachable state. -/

namespace Sys2Proof.Machine

theorem Reaches.invariant {s t : State} (h : Reaches s t) (hs : Invariant s.pwm) : Invariant t.pwm := by
  induction h with
  | refl => exact hs
  | tail _ hstep ih => exact stepKeepsInvariant.1 _ _ ih hstep

theorem reachable_invariant {xs : List Stimulus} {t : State} (h : Reaches (resetWith xs) t) : Invariant t.pwm :=
  h.invariant (reset_invariant _)

/-- Settles O54: the law is invariants 3 and 4. -/
theorem rangeLaw : Obligations.RangeLaw :=
  fun _ _ h => ⟨(reachable_invariant h).max_lt, (reachable_invariant h).active_le⟩

end Sys2Proof.Machine
end

section
/-! PROOFS. One cycle of a channel (41_compare.md R94, R96): the positions of the cycle at which it is wanted on, and the one at which
it matches, as intervals of ticks, which are then counted. -/

namespace Sys2Proof.Machine

open Sys2Proof.Claims

variable {n : Nat}

/-! ## The states of a cycle -/

theorem afterTicks_invariant {c : Pwm n} (h : Invariant c) (k : Nat) : Invariant (afterTicks k c) := by
  induction k with
  | zero => exact h
  | succ k ih =>
    rw [afterTicks_succ]
    exact tick_invariant ih

theorem atPosition_of_lt_cycle {c : Pwm n} (h : Invariant c) (hstart : AtCycleStart c) {j : Nat}
    (hj : j < cycleLength c.mode c.period) : AtPosition (afterTicks j c) j := by
  have hpos := hstart.atPosition_afterTicks h.period_pos j
  rwa [Nat.mod_eq_of_lt hj] at hpos

/-- No tick before the end of the cycle is a boundary, so none promotes (R83, R93). -/
theorem active_of_lt_cycle {c : Pwm n} (h : Invariant c) (hstart : AtCycleStart c) {j : Nat}
    (hj : j < cycleLength c.mode c.period) : (afterTicks j c).active = c.active := by
  induction j with
  | zero => rfl
  | succ j ih =>
    have hbefore : j < cycleLength c.mode c.period := by omega
    obtain ⟨hmode, -, hperiod⟩ := afterTicks_config j c
    have hboundary : ¬boundaryNext (afterTicks j c) = true := by
      rw [(atPosition_of_lt_cycle h hstart hbefore).boundaryNext_iff (afterTicks_invariant h j).period_pos, hmode, hperiod,
        Nat.mod_eq_of_lt hj]
      exact Nat.succ_ne_zero j
    rw [afterTicks_succ, tick_active, tickActive, if_neg hboundary, ih hbefore]

theorem cnt_of_lt_cycle {c : Pwm n} (h : Invariant c) (hstart : AtCycleStart c) {j : Nat}
    (hj : j < cycleLength c.mode c.period) : (afterTicks j c).cnt.toNat = cycleValue c.direction c.period.toNat j := by
  obtain ⟨-, hdir, hperiod⟩ := afterTicks_config j c
  rw [(atPosition_of_lt_cycle h hstart hj).cnt_eq, hdir, hperiod]

theorem phase_of_lt_cycle {c : Pwm n} (h : Invariant c) (hstart : AtCycleStart c) {j : Nat}
    (hj : j < cycleLength c.mode c.period) : (afterTicks j c).phase = decide (c.period.toNat < j) := by
  obtain ⟨-, -, hperiod⟩ := afterTicks_config j c
  rw [(atPosition_of_lt_cycle h hstart hj).phase_eq, hperiod]

/-- The channel is wanted on where the table of R82 has the counter below its active value (R92). -/
theorem raw_iff_of_lt_cycle {c : Pwm n} (h : Invariant c) (hstart : AtCycleStart c) (i : Fin n) {j : Nat}
    (hj : j < cycleLength c.mode c.period) :
    (afterTicks j c).raw[i] = true ↔ cycleValue c.direction c.period.toNat j < (c.active[i]).toNat := by
  rw [(afterTicks_invariant h j).raw_iff i, cnt_of_lt_cycle h hstart hj, active_of_lt_cycle h hstart hj]

/-- The channel matches where the counter is at its active value on the first slope (R94). -/
theorem matches_iff_of_lt_cycle {c : Pwm n} (h : Invariant c) (hstart : AtCycleStart c) (i : Fin n) {j : Nat}
    (hj : j < cycleLength c.mode c.period) :
    (decide ((afterTicks j c).cnt = (afterTicks j c).active[i]) && !(afterTicks j c).phase) = true ↔
      cycleValue c.direction c.period.toNat j = (c.active[i]).toNat ∧ j ≤ c.period.toNat := by
  rw [phase_of_lt_cycle h hstart hj, active_of_lt_cycle h hstart hj, Bool.and_eq_true, decide_eq_true_iff, Bool.not_eq_true',
    decide_eq_false_iff_not, ← BitVec.toNat_inj, cnt_of_lt_cycle h hstart hj]
  exact and_congr_right fun _ => Nat.not_lt

/-! ## The positions, as intervals -/

/-- Counting down first, the channel is on around the far end, where the counter is 0. -/
theorem cycleValue_down_lt_iff {period a j : Nat} (ha : a ≤ period) (hj : j ≤ 2 * period) :
    cycleValue .down period j < a ↔ period - a + 1 ≤ j ∧ j < period + a := by
  simp only [cycleValue, distanceFromStart]
  split <;> omega

/-- Counting up first, it is off around the far end, where the counter is `period`. -/
theorem le_cycleValue_up_iff {period a j : Nat} (ha : a ≤ period) (hj : j ≤ 2 * period) :
    a ≤ cycleValue .up period j ↔ a ≤ j ∧ j < 2 * period - a + 1 := by
  simp only [cycleValue, distanceFromStart]
  split <;> omega

/-- The position at which the first slope passes the value `a`. -/
def matchPosition (dir : Direction) (period a : Nat) : Nat :=
  match dir with
  | .down => period - a
  | .up => a

theorem matchPosition_le (dir : Direction) {period a : Nat} (ha : a ≤ period) : matchPosition dir period a ≤ period := by
  cases dir
  · exact Nat.sub_le ..
  · exact ha

theorem cycleValue_eq_iff (dir : Direction) {period a j : Nat} (ha : a ≤ period) :
    cycleValue dir period j = a ∧ j ≤ period ↔ matchPosition dir period a ≤ j ∧ j < matchPosition dir period a + 1 := by
  cases dir <;> simp only [cycleValue, matchPosition, distanceFromStart] <;> split <;> omega

/-! ## Counting -/

theorem countP_range_interval (len lo hi : Nat) :
    (List.range len).countP (fun j => decide (lo ≤ j ∧ j < hi)) = min hi len - lo := by
  induction len with
  | zero => simp
  | succ len ih =>
    rw [List.range_succ, List.countP_append, ih, List.countP_singleton]
    simp only [decide_eq_true_eq]
    split <;> omega

/-- What holds exactly on an interval of the cycle is counted by its length. -/
theorem countP_range_of_interval {len lo hi : Nat} {f : Nat → Bool} (h : ∀ j < len, f j = true ↔ lo ≤ j ∧ j < hi) :
    (List.range len).countP f = min hi len - lo := by
  rw [← countP_range_interval]
  exact List.countP_congr fun j hj => (h j (List.mem_range.mp hj)).trans decide_eq_true_iff.symm

/-- Every tick of the cycle is counted on or off. -/
theorem countP_range_add_not (len : Nat) (f : Nat → Bool) :
    (List.range len).countP f + (List.range len).countP (fun j => !f j) = len := by
  have h := List.length_eq_countP_add_countP f (l := List.range len)
  simp only [List.length_range, Bool.not_eq_true, Bool.decide_eq_false] at h
  exact h.symm

theorem le_two_mul_of_lt_cycleLength {mode : SlopeMode} {period : Ticks} {j : Nat}
    (hj : j < cycleLength mode period) : j ≤ 2 * period.toNat := by
  cases mode <;> simp only [cycleLength] at hj <;> omega

/-- The ticks of a cycle at which the counter is below `a` (R96). -/
theorem countP_cycleValue_lt (mode : SlopeMode) (dir : Direction) {period : Ticks} {a : Nat} (ha : a < period.toNat) :
    (List.range (cycleLength mode period)).countP (fun j => decide (cycleValue dir period.toNat j < a)) = dutyTicks mode a := by
  cases dir with
  | down =>
    rw [countP_range_of_interval fun j hj =>
      decide_eq_true_iff.trans (cycleValue_down_lt_iff ha.le (le_two_mul_of_lt_cycleLength hj))]
    cases mode <;> simp only [cycleLength, dutyTicks]
    · omega
    · split <;> omega
  | up =>
    have hoff : (List.range (cycleLength mode period)).countP (fun j => !decide (cycleValue .up period.toNat j < a)) =
        min (2 * period.toNat - a + 1) (cycleLength mode period) - a :=
      countP_range_of_interval fun j hj => by
        rw [Bool.not_eq_true', decide_eq_false_iff_not, Nat.not_lt,
          le_cycleValue_up_iff ha.le (le_two_mul_of_lt_cycleLength hj)]
    have htotal := countP_range_add_not (cycleLength mode period) fun j => decide (cycleValue .up period.toNat j < a)
    rw [hoff] at htotal
    cases mode <;> simp only [cycleLength, dutyTicks] at htotal ⊢
    · omega
    · split <;> omega

/-! ## The obligations -/

theorem Invariant.active_lt_period {c : Pwm n} (h : Invariant c) (i : Fin n) : (c.active[i]).toNat < c.period.toNat :=
  (h.active_le i).trans_lt h.max_lt

/-- Settles O34: the ticks at which the counter is below `active[i]`, and the rest of the cycle. -/
theorem dutyTicksPerCycle : Obligations.DutyTicksPerCycle := by
  intro n c i h hstart
  have hon : (List.range (cycleLength c.mode c.period)).countP (fun j => (afterTicks j c).raw[i]) =
      dutyTicks c.mode (c.active[i]).toNat := by
    rw [← countP_cycleValue_lt c.mode c.direction (h.active_lt_period i)]
    exact List.countP_congr fun j hj =>
      (raw_iff_of_lt_cycle h hstart i (List.mem_range.mp hj)).trans decide_eq_true_iff.symm
  have htotal := countP_range_add_not (cycleLength c.mode c.period) fun j => (afterTicks j c).raw[i]
  exact ⟨hon, by omega⟩

/-- Settles O35: the match is at the one position where the first slope passes `active[i]`. -/
theorem oneMatchPerCycle : Obligations.OneMatchPerCycle := by
  intro n c i h hstart
  have hlt := h.active_lt_period i
  have hle := matchPosition_le c.direction hlt.le
  rw [countP_range_of_interval fun j hj =>
    (matches_iff_of_lt_cycle h hstart i hj).trans (cycleValue_eq_iff c.direction hlt.le)]
  have hlen : c.period.toNat < cycleLength c.mode c.period := by
    cases c.mode <;> simp only [cycleLength] <;> omega
  omega

end Sys2Proof.Machine
end

section
/-! PROOFS. The gated outputs and the pins (42_deadtime.md R108, R112; 43_fault.md R130): when each is active, and what the
override does to both pins of a pair. -/

namespace Sys2Proof.Machine

open Sys2Proof.Claims

variable {n : Nat}

/-! ## The gated outputs of a pair (R112) -/

/-- A side is active while the raw output wants it and no dead time is left (R112). -/
theorem sideActive_iff (v : Bool) (c : Pwm n) (p : Fin n) :
    sideActive v c p = true ↔ c.enabled = true ∧ c.raw[p] = v ∧ c.dtCnt[p] = 0 := by
  cases v <;> simp [sideActive, outH, outL, and_assoc]

theorem outH_iff (c : Pwm n) (p : Fin n) : outH c p = true ↔ c.enabled = true ∧ c.raw[p] = true ∧ c.dtCnt[p] = 0 :=
  sideActive_iff true c p

theorem outL_iff (c : Pwm n) (p : Fin n) : outL c p = true ↔ c.enabled = true ∧ c.raw[p] = false ∧ c.dtCnt[p] = 0 :=
  sideActive_iff false c p

/-- The side the raw output does not want is inactive. -/
theorem sideActive_not_of_raw {v : Bool} {c : Pwm n} {p : Fin n} (h : c.raw[p] = v) : sideActive (!v) c p = false := by
  rw [← Bool.not_eq_true, sideActive_iff]
  rintro ⟨-, hraw, -⟩
  exact (Bool.eq_not_self v).mp (h.symm.trans hraw)

theorem outputs_inactive_of_stopped {c : Pwm n} (h : c.enabled = false) (p : Fin n) : outH c p = false ∧ outL c p = false := by
  simp [outH, outL, h]

theorem outputs_inactive_of_dtCnt_pos {c : Pwm n} {p : Fin n} (h : 0 < (c.dtCnt[p]).toNat) :
    outH c p = false ∧ outL c p = false := by
  have hrunning : c.dtCnt[p] ≠ 0 := fun hzero => by simp [hzero] at h
  simp only [← Bool.not_eq_true, outH_iff, outL_iff]
  exact ⟨fun ⟨_, _, hzero⟩ => hrunning hzero, fun ⟨_, _, hzero⟩ => hrunning hzero⟩

/-- With no dead time left, the side the raw output wants is active as soon as the carrier is enabled (R114). -/
theorem outputs_follow_raw {c : Pwm n} {p : Fin n} (he : c.enabled = true) (hzero : c.dtCnt[p] = 0) :
    outH c p = c.raw[p] ∧ outL c p = !c.raw[p] := by
  simp [outH, outL, he, hzero]

theorem outputsExclusive (c : Pwm n) : OutputsExclusive c := by
  rintro p ⟨hhigh, hlow⟩
  obtain ⟨-, hon, -⟩ := (outH_iff c p).mp hhigh
  obtain ⟨-, hoff, -⟩ := (outL_iff c p).mp hlow
  exact Bool.noConfusion (hon.symm.trans hoff)

/-! ## The pins (R130) -/

theorem levelOf_eq_high_iff (active : Bool) : levelOf active = .high ↔ active = true := by
  cases active <;> decide

theorem pins_of_forced {c : Pwm n} (h : c.force = true) (p : Fin n) : pinH c p = c.safe ∧ pinL c p = c.safe :=
  ⟨if_pos h, if_pos h⟩

theorem pins_high_iff_of_unforced {c : Pwm n} (h : c.force = false) (p : Fin n) :
    (pinH c p = .high ↔ outH c p = true) ∧ (pinL c p = .high ↔ outL c p = true) := by
  simp [pinH, pinL, h, levelOf_eq_high_iff]

/-- The pins are a function of the override and of the gated outputs. -/
theorem pins_congr {c c' : Pwm n} {p : Fin n} (hforce : c'.force = c.force) (hsafe : c'.safe = c.safe)
    (hout : outH c' p = outH c p ∧ outL c' p = outL c p) : pinH c' p = pinH c p ∧ pinL c' p = pinL c p := by
  obtain ⟨hhigh, hlow⟩ := hout
  simp only [pinH, pinL, hforce, hsafe, hhigh, hlow, and_self]

/-! ## The obligations -/

/-- Settles O38: `raw` cannot want both sides, and a forced pair shows `safe` twice. -/
theorem mutualExclusion : Obligations.MutualExclusion := by
  intro n c
  refine ⟨outputsExclusive c, fun hc p => ?_, fun hforce hsafe p => hsafe ▸ pins_of_forced hforce p⟩
  cases hforce : c.force with
  | false =>
    obtain ⟨hhigh, hlow⟩ := pins_high_iff_of_unforced hforce p
    rw [hhigh, hlow]
    exact outputsExclusive c p
  | true =>
    have hsafe : c.safe = .low := hc.resolve_left (by simp [hforce])
    simp [pins_of_forced hforce p, hsafe]

/-- Settles O40: the two gated outputs, then the pins forced and unforced. -/
theorem gatedOutputsAndPins : Obligations.GatedOutputsAndPins :=
  fun _ c p =>
    ⟨outH_iff c p, outL_iff c p, fun hforce => pins_of_forced hforce p, fun hforce => pins_high_iff_of_unforced hforce p⟩

end Sys2Proof.Machine
end

section
/-! PROOFS. The commands at the Dead-Time Unit: `CFGDT` as an equation on the whole state (42_deadtime.md R105), and what `START`,
`STOP` and `CFGCAR` do to the outputs (R114). -/

namespace Sys2Proof.Machine

open Sys2Proof.Claims

/-! ## CFGDT, by whether the pair exists and the outcome of its check -/

theorem exec_cfgdt_of_absent {idx : Index} (h : Config.numChannels ≤ idx.toNat) (low high : DeadTicks) (s : State) :
    exec (.cfgdt idx low high) s = .next (illegal s) := by
  simp only [exec, execCfgdt, channelOf_of_ge h, raiseIllegalCommand_eq_illegal]

/-- `CFGDT` of a pair that exists is its check, then a rejection or its two writes (R105). -/
theorem exec_cfgdt_of_present {idx : Index} (h : idx.toNat < Config.numChannels) (low high : DeadTicks) (s : State) :
    exec (.cfgdt idx low high) s =
      if cfgdtRejected low high s.pwm then .next (rejected s)
      else .next (accepted 0 (writeDeadTimes ⟨idx.toNat, h⟩ low high s.pwm) s) := by
  simp only [exec, execCfgdt, channelOf_of_lt h, raiseConfigurationError_eq_rejected, respond_eq_accepted]

/-- Settles O16: by whether the pair exists, and then the two causes of R105 are the check. -/
theorem cfgdtSetsOrRejects : Obligations.CfgdtSetsOrRejects := by
  intro idx low high s
  refine ⟨fun habsent => exec_cfgdt_of_absent habsent low high s, fun h hcause => ?_, fun h henabled hsum => ?_⟩
  · rw [exec_cfgdt_of_present h, if_pos ((cfgdtRejected_iff low high s.pwm).mpr hcause)]
  · have haccepted : ¬cfgdtRejected low high s.pwm = true := by
      rw [cfgdtRejected_iff]
      push Not
      exact ⟨by simp [henabled], hsum⟩
    rw [exec_cfgdt_of_present h, if_neg haccepted]
    rfl

/-! ## Outputs at START, STOP and CFGCAR (R114) -/

/-- A command that answers 0 was accepted. -/
theorem exec_accepts_of_zero {i : Instr} {s t : State} (hexec : exec i s = .next t)
    (hresponse : t.response = some 0x00000000#32) : ∃ d, Accepts Config.destMask s.pwm i t.pwm d := by
  obtain ⟨r, hr, hanswers⟩ := exec_answers hexec
  exact hanswers.accepted_of_zero (Option.some.inj (hr.symm.trans hresponse))

/-- An accepted `CFGCAR` finds the carrier stopped and leaves it stopped, so no pin can move (R70, R112). -/
theorem pins_of_cfgcar {n : Nat} {period : Ticks} {div : Divisor} {c : Pwm n} (h : cfgcarRejected period div c = false)
    (dir : Direction) (mode : SlopeMode) (p : Fin n) :
    pinH (loadCarrier period dir mode div c) p = pinH c p ∧ pinL (loadCarrier period dir mode div c) p = pinL c p := by
  have hstopped : c.enabled = false := by
    rw [← Bool.not_eq_true]
    exact fun henabled => Bool.eq_false_iff.mp h ((cfgcarRejected_iff period div c).mpr (.inl henabled))
  obtain ⟨hhigh, hlow⟩ := outputs_inactive_of_stopped hstopped p
  obtain ⟨hhigh', hlow'⟩ := outputs_inactive_of_stopped (c := loadCarrier period dir mode div c) hstopped p
  exact pins_congr rfl rfl ⟨hhigh'.trans hhigh.symm, hlow'.trans hlow.symm⟩

/-- Settles O39: what each of the three commands leaves, read at the outputs. -/
theorem outputsAtStartStopCfgcar : Obligations.OutputsAtStartStopCfgcar := by
  intro s t
  refine ⟨fun hexec hresponse p hzero => ?start, fun hexec p => ?stop, fun period dir mode div hexec hresponse p => ?cfgcar⟩
  case start =>
    obtain ⟨_, haccepts⟩ := exec_accepts_of_zero hexec hresponse
    generalize t.pwm = c' at haccepts
    cases haccepts
    exact outputs_follow_raw rfl hzero
  case stop =>
    cases (exec_stop s).symm.trans hexec
    exact outputs_inactive_of_stopped rfl p
  case cfgcar =>
    obtain ⟨_, haccepts⟩ := exec_accepts_of_zero hexec hresponse
    generalize t.pwm = c' at haccepts
    cases haccepts with
    | cfgcar guard => exact pins_of_cfgcar guard dir mode p

end Sys2Proof.Machine
end

section
/-! PROOFS. The dead-time law (42_deadtime.md R107, R109 to R111): the dead-time counter through a run of ticks that begins with a
transition of the raw output, and the outputs it holds back. -/

namespace Sys2Proof.Machine

open Sys2Proof.Claims

variable {n : Nat} {c : Pwm n} {p : Fin n} {v : Bool}

/-! ## The dead-time counter of one tick (R107) -/

theorem tick_dtCnt_of_transition (h : (tick c).raw[p] ≠ c.raw[p]) :
    ((tick c).dtCnt[p]).toNat = sideDeadTime (tick c).raw[p] c p := by
  rw [tick_dtCnt, deadTimeNext_eq, if_pos h, sideDeadTime, apply_ite BitVec.toNat]

theorem tick_dtCnt_of_no_transition (h : (tick c).raw[p] = c.raw[p]) :
    ((tick c).dtCnt[p]).toNat = (c.dtCnt[p]).toNat - 1 := by
  rw [tick_dtCnt, deadTimeNext_eq, if_neg (not_not_intro h)]
  split <;> bv_omega

/-! ## Many ticks -/

/-- Ticks leave `enabled` and the dead times alone (R81). -/
theorem afterTicks_deadTimeConfig (k : Nat) (c : Pwm n) :
    (afterTicks k c).enabled = c.enabled ∧ (afterTicks k c).dtLow = c.dtLow ∧ (afterTicks k c).dtHigh = c.dtHigh := by
  induction k with
  | zero => exact ⟨rfl, rfl, rfl⟩
  | succ k ih => rwa [afterTicks_succ, tick_writes]

theorem sideDeadTime_afterTicks (v : Bool) (k : Nat) (c : Pwm n) (p : Fin n) :
    sideDeadTime v (afterTicks k c) p = sideDeadTime v c p := by
  obtain ⟨-, hlow, hhigh⟩ := afterTicks_deadTimeConfig k c
  simp only [sideDeadTime, hlow, hhigh]

/-- `m` ticks after a transition to `v`, with none since, the counter has run down by `m` from the dead time of that side (R107). -/
theorem afterTicks_dtCnt_of_run {m : Nat} (hstart : c.raw[p] ≠ v) (hrun : ∀ j : Nat, j ≤ m → (afterTicks (j + 1) c).raw[p] = v) :
    ((afterTicks (m + 1) c).dtCnt[p]).toNat = sideDeadTime v c p - m := by
  induction m with
  | zero =>
    have hfirst : (tick c).raw[p] = v := hrun 0 le_rfl
    have hreload := tick_dtCnt_of_transition (hfirst.trans_ne hstart.symm)
    rwa [hfirst] at hreload
  | succ m ih =>
    have hbefore := ih fun j hj => hrun j (Nat.le_succ_of_le hj)
    have hlast : (tick (afterTicks (m + 1) c)).raw[p] = v := afterTicks_succ (m + 1) c ▸ hrun (m + 1) le_rfl
    rw [afterTicks_succ, tick_dtCnt_of_no_transition (hlast.trans (hrun m (Nat.le_succ m)).symm), hbefore, Nat.sub_sub]

/-- In a run of `v` that begins with a transition, its side is active exactly when its dead time has passed (R109). -/
theorem sideActive_of_run_iff {m : Nat} (he : c.enabled = true) (hstart : c.raw[p] ≠ v)
    (hrun : ∀ j : Nat, j ≤ m → (afterTicks (j + 1) c).raw[p] = v) :
    sideActive v (afterTicks (m + 1) c) p = true ↔ sideDeadTime v c p ≤ m := by
  obtain ⟨henabled, -, -⟩ := afterTicks_deadTimeConfig (m + 1) c
  have hcnt := afterTicks_dtCnt_of_run hstart hrun
  rw [sideActive_iff, henabled, he, hrun m le_rfl, ← BitVec.toNat_inj, hcnt]
  simp [Nat.sub_eq_zero_iff_le]

/-! ## Transitions cut short (R111) -/

theorem min_le_sideDeadTime (v : Bool) (c : Pwm n) (p : Fin n) :
    min (c.dtLow[p]).toNat (c.dtHigh[p]).toNat ≤ sideDeadTime v c p := by
  cases v
  · exact Nat.min_le_left _ _
  · exact Nat.min_le_right _ _

/-- After a transition the counter never falls below the smaller dead time by more than the ticks that have passed: another
transition only reloads it (R107). -/
theorem min_le_afterTicks_dtCnt (htransition : (tick c).raw[p] ≠ c.raw[p]) (m : Nat) :
    min (c.dtLow[p]).toNat (c.dtHigh[p]).toNat ≤ ((afterTicks (m + 1) c).dtCnt[p]).toNat + m := by
  induction m with
  | zero => exact (min_le_sideDeadTime _ c p).trans (tick_dtCnt_of_transition htransition).ge
  | succ m ih =>
    rw [afterTicks_succ]
    by_cases hraw : (tick (afterTicks (m + 1) c)).raw[p] = (afterTicks (m + 1) c).raw[p]
    · rw [tick_dtCnt_of_no_transition hraw]
      omega
    · rw [tick_dtCnt_of_transition hraw, sideDeadTime_afterTicks]
      exact (min_le_sideDeadTime _ c p).trans (Nat.le_add_right _ _)

/-! ## The obligations -/

/-- Settles O41: the counter is not yet 0, or the side is active; and `raw` does not want the old side. -/
theorem deadTimeLaw : Obligations.DeadTimeLaw := by
  intro n c p v m he hstart hrun
  refine ⟨fun hdead => ?_, (sideActive_of_run_iff he hstart hrun).mpr, sideActive_not_of_raw (hrun m le_rfl)⟩
  have hcnt := afterTicks_dtCnt_of_run hstart hrun
  exact outputs_inactive_of_dtCnt_pos (by omega)

/-- Settles O42: the active ticks of the run are those from the dead time on. -/
theorem activeTicksOfRun : Obligations.ActiveTicksOfRun := by
  intro n c p v k he hstart hrun
  have hactive : ∀ j < k, sideActive v (afterTicks (j + 1) c) p = true ↔ sideDeadTime v c p ≤ j ∧ j < k := fun j hj =>
    (sideActive_of_run_iff he hstart fun i hi => hrun i (hi.trans_lt hj)).trans (and_iff_left hj).symm
  rw [countP_range_of_interval hactive, Nat.min_self]

/-- Settles O43: until the smaller dead time has passed the counter is not 0. -/
theorem minimumDeadTime : Obligations.MinimumDeadTime := by
  intro n c p m htransition hm
  have hcnt := min_le_afterTicks_dtCnt htransition m
  exact outputs_inactive_of_dtCnt_pos (by omega)

end Sys2Proof.Machine
end

section
/-! PROOFS. Delivery of an event and the Fault Monitor's commands, as equations on the whole state (43_fault.md R120, R123 to
R127). -/

namespace Sys2Proof.Machine

open Sys2Proof.Claims

/-! ## Delivery of an event (R126) -/

section

variable {n : Nat} {dest : BitVec 8} {ch : Nat} {c : Pwm n}

theorem trigger_of_masked_armed (hdest : dest.getLsbD ch = true) (hmask : c.evmask.getLsbD ch = true)
    (harmed : c.fstate = .armed) : trigger dest ch c = { c with fstate := .faulted, force := true, faultif := true } :=
  if_pos ⟨by simp [maskedEvent, hdest, hmask], harmed⟩

/-- An event is dropped for any one of three reasons. -/
theorem trigger_of_dropped (h : dest.getLsbD ch = false ∨ c.evmask.getLsbD ch = false ∨ c.fstate = .faulted) :
    trigger dest ch c = c := by
  rcases h with hdest | hmask | hfaulted
  · exact if_neg (by simp [maskedEvent, hdest])
  · exact if_neg (by simp [maskedEvent, hmask])
  · exact trigger_of_faulted dest ch hfaulted

/-- In the build with the stated destination mask only `evmask` and the monitor's state decide (R6). -/
theorem trigger_destMask (hch : ch < 8) :
    trigger Config.destMask ch c =
      if c.evmask.getLsbD ch = true ∧ c.fstate = .armed then { c with fstate := .faulted, force := true, faultif := true }
      else c := by
  simp [trigger, maskedEvent, destMask_routes ch hch]

/-- A boundary's part leaves the event mask alone (R128). -/
theorem boundaryFault_evmask : (boundaryFault c).evmask = c.evmask := by rw [boundaryFault_writes]

end

/-- Settles O44: the reasons to drop, the latch, and the latch again for the monitor that a boundary and a clear have armed. -/
theorem triggerForEveryDestMask : Obligations.TriggerForEveryDestMask := by
  intro n dest ch c
  refine ⟨trigger_of_dropped, trigger_of_masked_armed, fun hdest hmask => ?_⟩
  have hmask' : ({ boundaryFault c with fstate := .armed } : Pwm n).evmask.getLsbD ch.val = true := by
    rw [← hmask, boundaryFault_evmask]
  rw [trigger_of_masked_armed hdest hmask' rfl]
  exact ⟨rfl, rfl⟩

/-- Settles O9: the event at the head of the list is one trigger of its channel. -/
theorem eventStepTriggers : Obligations.EventStepTriggers :=
  fun s ch rest hs =>
    ⟨(s.withInputs rest).answer (trigger Config.destMask ch.val s.pwm) none, nextStep_of_inputs_cons hs, rfl,
      trigger_destMask ch.isLt⟩

/-! ## The commands -/

theorem exec_cfgflt (restart : RestartMode) (safe : Level) (mask : BitVec 8) (s : State) :
    exec (.cfgflt restart safe mask) s =
      if s.pwm.enabled then .next (rejected s)
      else .next (accepted 0 { s.pwm with restart := restart, safe := safe, evmask := mask } s) := by
  simp only [exec, execCfgflt, raiseConfigurationError_eq_rejected, respond_eq_accepted]

theorem exec_fire_of_absent {idx : Index} (h : 8 ≤ idx.toNat) (s : State) : exec (.fire idx) s = .next (illegal s) := by
  simp only [exec, execFire, fireFor, eventChannelOf_of_ge h, raiseIllegalCommand_eq_illegal]

/-- `FIRE` of an Event Channel that exists delivers one event and answers 0 (R123). -/
theorem exec_fire_of_present {idx : Index} (h : idx.toNat < 8) (s : State) :
    exec (.fire idx) s = .next (accepted 0 (trigger Config.destMask idx.toNat s.pwm) s) := by
  simp only [exec, execFire, fireFor, eventChannelOf_of_lt h, respond_eq_accepted]

theorem exec_clrflt (s : State) : exec .clrflt s = .next (accepted 0 { s.pwm with fstate := .armed } s) :=
  respond_eq_accepted 0 _ s

theorem exec_status (s : State) :
    exec .status s = .next (accepted ((faultStateBit s.pwm.fstate).setWidth 16) s.pwm s) :=
  respond_eq_accepted _ s.pwm s

/-- Settles O17: by whether the carrier runs, the only check. -/
theorem cfgfltSetsOrRejects : Obligations.CfgfltSetsOrRejects := by
  intro restart safe mask s
  refine ⟨fun henabled => ?_, fun hstopped => ?_⟩
  · rw [exec_cfgflt, if_pos henabled]
  · rw [exec_cfgflt, if_neg (Bool.eq_false_iff.mp hstopped)]

/-- Settles O21: by whether the Event Channel exists, and then by what the event it delivers does. -/
theorem fireLatchesOrDoesNothing : Obligations.FireLatchesOrDoesNothing := by
  intro idx s
  refine ⟨fun habsent => exec_fire_of_absent habsent s, fun h hmask harmed => ?_, fun h hdropped => ?_⟩
  · rw [exec_fire_of_present h, trigger_of_masked_armed (destMask_routes _ h) hmask harmed]
  · rw [exec_fire_of_present h, trigger_of_dropped (.inr hdropped)]

/-- Settles O22: the clear is its one write, and the status word is the bit of the monitor's state. -/
theorem clrfltArmsAndStatusReads : Obligations.ClrfltArmsAndStatusReads := by
  intro s
  refine ⟨exec_clrflt s, fun harmed => ?_, fun hfaulted => ?_⟩
  · rw [exec_status, harmed]
    rfl
  · rw [exec_status, hfaulted]
    rfl

end Sys2Proof.Machine
end

section
/-! PROOFS. The transition table of the Fault Monitor (43_fault.md R121), row by row: the command words, the clock, the event and
the reset; and who writes `faultif`. -/

namespace Sys2Proof.Machine

open Sys2Proof.Claims

/-! ## The table's rows for a command word -/

/-- The words that match the mask of the `FIRE` row are those of `FIRE` with an Event Channel that exists (R51, R123). -/
theorem fire_mask_iff (w : Word) :
    w &&& 0xF8FFFFFF#32 = 0x90000000#32 ↔ ∃ idx : Index, idx.toNat < 8 ∧ encode (.fire idx) = w := by
  constructor
  · intro h
    have hfield (lo k : Nat) : field lo k w &&& field lo k 0xF8FFFFFF#32 = field lo k 0x90000000#32 := by
      rw [← field_and, h]
    have hreserved : field 0 24 w = 0 := (BitVec.and_allOnes (x := field 0 24 w)).symm.trans (hfield 0 24)
    have hopcode : field 28 4 w = 9 := (BitVec.and_allOnes (x := field 28 4 w)).symm.trans (hfield 28 4)
    have hsmall (idx : Index) : idx &&& 8 = 0 → idx.toNat < 8 := by
      revert idx
      decide
    exact ⟨field 24 4 w, hsmall _ (hfield 24 4), (encode_eq_iff_hasFields _ w).mpr ⟨hreserved, rfl, hopcode, trivial⟩⟩
  · rintro ⟨idx, hidx, rfl⟩
    revert idx
    decide

theorem encode_clrflt : encode .clrflt = 0xA0000000#32 := by decide

theorem nextFault_clrflt (c : Pwm Config.numChannels) : nextFault (.cmd (encode .clrflt)) c = (.armed, c.force) := by
  simp only [nextFault, encode_clrflt, if_true]

theorem nextFault_fire {idx : Index} (h : idx.toNat < 8) (c : Pwm Config.numChannels) :
    nextFault (.cmd (encode (.fire idx))) c =
      if c.evmask.getLsbD idx.toNat = true ∧ c.fstate = .armed then (.faulted, true) else (c.fstate, c.force) := by
  have hmask : encode (.fire idx) &&& 0xF8FFFFFF#32 = 0x90000000#32 := (fire_mask_iff _).mpr ⟨idx, h, rfl⟩
  have hidx : (encode (.fire idx)).extractLsb' 24 4 = idx := by
    obtain ⟨-, hidx, -⟩ := hasFields_encode (.fire idx)
    exact hidx
  have hclear : encode (.fire idx) ≠ 0xA0000000#32 := by
    intro hw
    rw [hw] at hmask
    exact absurd hmask (by decide)
  simp only [nextFault, if_neg hclear, hmask, hidx, true_and]

/-- The table has no row for any other word. -/
theorem nextFault_of_other_word {w : Word} (hclear : encode .clrflt ≠ w)
    (hfire : ¬∃ idx : Index, idx.toNat < 8 ∧ encode (.fire idx) = w) (c : Pwm Config.numChannels) :
    nextFault (.cmd w) c = (c.fstate, c.force) := by
  have hclear' : w ≠ 0xA0000000#32 := fun hw => hclear (encode_clrflt.trans hw.symm)
  have hfire' : w &&& 0xF8FFFFFF#32 ≠ 0x90000000#32 := (fire_mask_iff w).not.mpr hfire
  simp only [nextFault, if_neg hclear', hfire', false_and, if_false]

/-! ## What a command does to the monitor -/

theorem eq_fire_of_opcodeOf {i : Instr} (h : opcodeOf i = 9) : ∃ idx, i = .fire idx := by
  cases i with
  | fire idx => exact ⟨idx, rfl⟩
  | _ => simp [opcodeOf] at h

theorem eq_clrflt_of_opcodeOf {i : Instr} (h : opcodeOf i = 10) : i = .clrflt := by
  cases i with
  | clrflt => rfl
  | _ => simp [opcodeOf] at h

/-- An event of the stated build moves the monitor as the table's `EVENT` row says (R121, R126). -/
theorem trigger_fault {ch : Nat} (hch : ch < 8) (c : Pwm Config.numChannels) :
    ((trigger Config.destMask ch c).fstate, (trigger Config.destMask ch c).force) =
      if c.evmask.getLsbD ch = true ∧ c.fstate = .armed then (.faulted, true) else (c.fstate, c.force) := by
  rw [trigger_destMask hch]
  split <;> rfl

/-- A command that is no `FIRE` and no `CLRFLT` leaves the monitor as it is, accepted or not. -/
theorem Answers.fault_unchanged {n : Nat} {dest : BitVec 8} {c c' : Pwm n} {i : Instr} {r : Word} (h : Answers dest c i c' r)
    (hfire : opcodeOf i ≠ 9) (hclear : opcodeOf i ≠ 10) : (c'.fstate, c'.force) = (c.fstate, c.force) := by
  cases h with
  | accepted ha => rw [ha.fstate_unchanged hfire hclear, ha.force_unchanged hfire]
  | rejected => rfl
  | illegal => rfl

/-- A command step moves the monitor as the table says: by `CLRFLT`, by a `FIRE` whose index exists, or not at all. -/
theorem commandStep_fault {w : Word} {s t : State} (h : commandStep exec w s = .next t) :
    (t.pwm.fstate, t.pwm.force) = nextFault (.cmd w) s.pwm := by
  by_cases hclear : encode .clrflt = w
  · subst hclear
    rw [commandStep_of_decodeFor_ok (decodeOfEncode _ _ rfl), exec_clrflt] at h
    cases h
    exact (nextFault_clrflt _).symm
  by_cases hfire : ∃ idx : Index, idx.toNat < 8 ∧ encode (.fire idx) = w
  · obtain ⟨idx, hidx, rfl⟩ := hfire
    rw [commandStep_of_decodeFor_ok (decodeOfEncode _ (.fire idx) (decide_eq_true hidx)), exec_fire_of_present hidx] at h
    cases h
    exact (trigger_fault hidx _).trans (nextFault_fire hidx _).symm
  · rw [nextFault_of_other_word hclear hfire]
    rcases commandStep_cases h with ⟨i, decoded, hexec⟩ | ⟨_, -, hillegal⟩
    · obtain ⟨hword, hwf⟩ := encodeOfDecode _ _ _ decoded
      obtain ⟨r, -, hanswers⟩ := exec_answers hexec
      refine hanswers.fault_unchanged (fun hop => hfire ?_) (fun hop => hclear ?_)
      · obtain ⟨idx, rfl⟩ := eq_fire_of_opcodeOf hop
        exact ⟨idx, of_decide_eq_true hwf, hword⟩
      · rwa [← eq_clrflt_of_opcodeOf hop]
    · obtain ⟨hpwm, -⟩ := raiseIllegalCommand_eq_next hillegal
      rw [hpwm]

/-! ## What a clock does to the monitor -/

theorem clk_fstate {n : Nat} (c : Pwm n) :
    (clk c).fstate =
      if (ticksNext c = true ∧ boundaryNext c = true) ∧ c.restart = .cycleByCycle then .armed else c.fstate := by
  rcases clk_cases c with ⟨hstopped, hc⟩ | ⟨htick, -, hc⟩ | ⟨-, htick, -, hc⟩ <;> rw [hc]
  · simp [ticksNext, hstopped]
  · rw [tick_fstate, boundaryNext_presc]
    simp [htick]
  · simp [htick]

theorem clk_force {n : Nat} (c : Pwm n) :
    (clk c).force =
      if (ticksNext c = true ∧ boundaryNext c = true) ∧ (clk c).fstate = .armed then false else c.force := by
  rcases clk_cases c with ⟨hstopped, hc⟩ | ⟨htick, -, hc⟩ | ⟨-, htick, -, hc⟩ <;> rw [hc]
  · simp [ticksNext, hstopped]
  · rw [tick_force, boundaryNext_presc]
    simp [htick]
  · simp [htick]

/-- A clock moves the monitor only at a boundary, and there by the state and the restart mode (R128). -/
theorem clk_fault (c : Pwm Config.numChannels) : ((clk c).fstate, (clk c).force) = nextFault .clk c := by
  rw [clk_force, clk_fstate]
  by_cases hb : ticksNext c = true ∧ boundaryNext c = true
  · cases hf : c.fstate <;> cases hr : c.restart <;> simp [nextFault, hb, hf, hr]
  · simp [nextFault, hb]

/-- Every step takes the monitor where the table says. -/
theorem step_fault {s t : State} {x : Stimulus} {rest : List Stimulus} (hs : s.inputs = x :: rest) (hstep : step s = .next t) :
    (t.pwm.fstate, t.pwm.force) = nextFault x s.pwm := by
  have htake : stimulusStep exec Config.destMask x (s.withInputs rest) = .next t :=
    (nextStep_of_inputs_cons hs).symm.trans hstep
  cases x with
  | cmd w => exact commandStep_fault (s := s.withInputs rest) htake
  | clk => cases htake; exact clk_fault _
  | event ch => cases htake; exact trigger_fault ch.isLt _
  | reset => cases htake; rfl

/-! ## Who writes `faultif` -/

section

variable {n : Nat} {dest : BitVec 8} {c c' : Pwm n}

theorem not_latches_of_faulted (h : c.fstate = .faulted) : ¬Latches c c' := by
  rintro ⟨harmed, -⟩
  cases h.symm.trans harmed

theorem clk_not_latches (c : Pwm n) : ¬Latches c (clk c) := by
  rcases clk_cases c with ⟨-, hc⟩ | ⟨-, -, hc⟩ | ⟨-, -, -, hc⟩ <;> rw [hc]
  · exact not_latches_of_fstate_eq rfl
  · exact tick_not_latches { c with presc := 0 }
  · exact not_latches_of_fstate_eq rfl

theorem clk_faultif (c : Pwm n) : (clk c).faultif = c.faultif := by
  rcases clk_cases c with ⟨-, hc⟩ | ⟨-, -, hc⟩ | ⟨-, -, -, hc⟩ <;> rw [hc]
  rw [tick_writes]

/-- Of the commands only `FIRE` latches (R121). -/
theorem Accepts.trigger_of_latches {i : Instr} {d : Ticks} (ha : Accepts dest c i c' d) (h : Latches c c') :
    ∃ ch, c' = trigger dest ch c := by
  cases ha with
  | fire ch => exact ⟨ch.val, rfl⟩
  | clrflt => exact absurd h (not_latches_of_armed rfl)
  | _ => exact absurd h (not_latches_of_fstate_eq rfl)

/-- Nothing but the delivery of an event latches (R121). -/
theorem HardwareStep.trigger_of_latches {x : Option Stimulus} {r : Option Word} (hs : HardwareStep dest c x c' r)
    (h : Latches c c') : ∃ ch, c' = trigger dest ch c := by
  cases hs with
  | command _ answer =>
    cases answer with
    | accepted ha => exact ha.trigger_of_latches h
    | rejected => exact absurd h (not_latches_of_fstate_eq rfl)
    | illegal => exact absurd h (not_latches_of_fstate_eq rfl)
  | event ch => exact ⟨ch.val, rfl⟩
  | clk => exact absurd h (clk_not_latches c)
  | reset => exact absurd h (not_latches_of_armed rfl)
  | _ => exact absurd h (not_latches_of_fstate_eq rfl)

/-- An event that latches nothing does nothing (R126). -/
theorem trigger_of_not_latches {ch : Nat} (h : ¬Latches c (trigger dest ch c)) : trigger dest ch c = c := by
  rcases trigger_cases dest ch c with ⟨-, harmed, latched⟩ | ⟨-, dropped⟩
  · exact absurd ⟨harmed, by rw [latched]⟩ h
  · exact dropped

theorem trigger_faultif_of_latches {ch : Nat} (h : Latches c (trigger dest ch c)) : (trigger dest ch c).faultif = true := by
  rcases trigger_cases dest ch c with ⟨-, -, latched⟩ | ⟨-, dropped⟩
  · rw [latched]
  · exact absurd h (not_latches_of_fstate_eq (by rw [dropped]))

/-- An accepted command that latches nothing and is no `ACK` leaves `faultif` alone. -/
theorem Accepts.faultif_of_not_latches {i : Instr} {d : Ticks} (ha : Accepts dest c i c' d) (h : ¬Latches c c')
    (hack : opcodeOf i ≠ 13) : c'.faultif = c.faultif := by
  cases ha with
  | fire => rw [trigger_of_not_latches h]
  | ack => exact absurd rfl hack
  | _ => rfl

/-- A step that latches nothing and is no `ACK` and no `RESET` leaves `faultif` alone (R121). -/
theorem HardwareStep.faultif_of_not_latches {x : Option Stimulus} {r : Option Word} (hs : HardwareStep dest c x c' r)
    (h : ¬Latches c c') (hreset : x ≠ some .reset) (hack : ∀ w, x = some (.cmd w) → opcode w ≠ 13) :
    c'.faultif = c.faultif := by
  cases hs with
  | command decoded answer =>
    cases answer with
    | accepted ha => exact ha.faultif_of_not_latches h (opcode_of_decodeFor decoded ▸ hack _ rfl)
    | rejected => rfl
    | illegal => rfl
  | event => rw [trigger_of_not_latches h]
  | clk => exact clk_faultif c
  | reset => exact absurd rfl hreset
  | _ => rfl

end

/-- Settles O45: the table row by row, then `faultif`, which a step that latches sets and any other one but `ACK` and `RESET` leaves
alone. -/
theorem faultMonitorTransitionTable : Obligations.FaultMonitorTransitionTable := by
  intro s t x rest hs hstep
  have hhw := step_hardware hstep
  rw [hs, List.head?_cons] at hhw
  refine ⟨step_fault hs hstep, fun harmed hfaulted => ?latches, fun hstays hreset hack => ?others⟩
  case latches =>
    have hlatches : Latches s.pwm t.pwm := ⟨harmed, hfaulted⟩
    obtain ⟨ch, htrigger⟩ := hhw.trigger_of_latches hlatches
    rw [htrigger] at hlatches ⊢
    exact trigger_faultif_of_latches hlatches
  case others =>
    have hnot : ¬Latches s.pwm t.pwm := hstays.elim not_latches_of_faulted not_latches_of_armed
    refine hhw.faultif_of_not_latches hnot (fun h => hreset (Option.some.inj h)) fun w hw => ?_
    obtain rfl := Option.some.inj hw
    exact (isCmd_iff 13 w).not.mp hack

end Sys2Proof.Machine
end

section
/-! PROOFS. The latch law (43_fault.md R131): the transition table keeps a Faulted monitor Faulted under latched restart, and so
does every run. -/

namespace Sys2Proof.Machine

open Sys2Proof.Claims

/-- The monitor is Faulted with the override on, and the restart mode is latched. -/
structure HoldsFault {n : Nat} (c : Pwm n) : Prop where
  faulted : c.fstate = .faulted
  forced : c.force = true
  latched : c.restart = .latched

/-- Of the table's rows only those of `CLRFLT` and `RESET` leave Faulted or release the override under latched restart. -/
theorem HoldsFault.nextFault_eq {c : Pwm Config.numChannels} (h : HoldsFault c) {x : Stimulus} (hreset : x ≠ .reset)
    (hclear : x ≠ .cmd (encode .clrflt)) : nextFault x c = (.faulted, true) := by
  obtain ⟨hfaulted, hforced, hlatched⟩ := h
  cases x with
  | cmd w =>
    have hword : w ≠ 0xA0000000#32 := fun hw => hclear (congrArg Stimulus.cmd (hw.trans encode_clrflt.symm))
    simp [nextFault, hword, hfaulted, hforced]
  | clk => simp [nextFault, hfaulted, hforced, hlatched]
  | event ch => simp [nextFault, hfaulted, hforced]
  | reset => exact absurd rfl hreset

/-- One step of a latched run keeps the fault: by the table if a stimulus waits, and trivially if none does. -/
theorem HoldsFault.of_step {s t : State} (h : HoldsFault s.pwm) (hclear : ¬clearNext s) (hreset : ¬resetNext s)
    (hstep : step s = .next t) (hlatched : t.pwm.restart = .latched) : HoldsFault t.pwm := by
  cases hs : s.inputs with
  | nil =>
    have hhw := step_hardware hstep
    rw [hs, List.head?_nil] at hhw
    generalize t.pwm = c', t.response = r at hhw hlatched ⊢
    cases hhw
    exact h
  | cons x rest =>
    have hnext : nextFault x s.pwm = (.faulted, true) :=
      h.nextFault_eq (fun hx => hreset ⟨rest, hx ▸ hs⟩) (fun hx => hclear ⟨rest, hx ▸ hs⟩)
    obtain ⟨hfaulted, hforced⟩ := Prod.mk.inj ((step_fault hs hstep).trans hnext)
    exact ⟨hfaulted, hforced, hlatched⟩

theorem HoldsFault.of_latchedRun {s t : State} (h : HoldsFault s.pwm) (hrun : LatchedRun s t) : HoldsFault t.pwm := by
  induction hrun with
  | refl => exact h
  | tail _ hclear hreset hstep hlatched ih => exact ih.of_step hclear hreset hstep hlatched

/-- Settles O46: the fault is kept along the run, and an override that is on holds every pin at the safe level. -/
theorem latchLaw : Obligations.LatchLaw := by
  intro s t hfaulted hforced hlatched hrun
  have hholds : HoldsFault t.pwm := HoldsFault.of_latchedRun ⟨hfaulted, hforced, hlatched⟩ hrun
  exact ⟨hholds.faulted, hholds.forced, pins_of_forced hholds.forced⟩

end Sys2Proof.Machine
end

section
/-! PROOFS. The event flags' commands (44_flags.md R140, R141): the flag word bit by bit, and write-one-to-clear as one choice per
flag. -/

namespace Sys2Proof.Machine

open Sys2Proof.Claims

variable {n : Nat}

/-! ## The flag word (R140) -/

theorem matchBit_of_lt (c : Pwm n) {k : Nat} (h : k < n) : matchBit c k = BitVec.ofBool c.matchFlag[k] := dif_pos h

theorem matchBit_of_ge (c : Pwm n) {k : Nat} (h : n ≤ k) : matchBit c k = 0 := dif_neg (Nat.not_lt.mpr h)

/-- Bit `k` of the match byte is the bit of channel `k`, whether that channel exists or not. -/
theorem getLsbD_matchByte (c : Pwm n) {k : Nat} (h : k < 8) : (matchByte c).getLsbD k = (matchBit c k).getLsbD 0 := by
  unfold matchByte
  interval_cases k <;> simp only [BitVec.getLsbD_append, Nat.reduceLT, Nat.reduceSub, if_true, if_false]

/-- The match flags are the low byte of the flag word. -/
theorem getLsbD_flagWord_of_lt (c : Pwm n) {k : Nat} (h : k < 8) : (flagWord c).getLsbD k = (matchBit c k).getLsbD 0 := by
  rw [flagWord, BitVec.getLsbD_append, if_pos h, getLsbD_matchByte c h]

theorem getLsbD_flagWord_of_present (c : Pwm n) {k : Nat} (h : k < 8) (hpresent : k < n) :
    (flagWord c).getLsbD k = c.matchFlag[k] := by
  simp [getLsbD_flagWord_of_lt c h, matchBit_of_lt c hpresent]

theorem getLsbD_flagWord_of_absent (c : Pwm n) {k : Nat} (h : k < 8) (habsent : n ≤ k) :
    (flagWord c).getLsbD k = false := by
  simp [getLsbD_flagWord_of_lt c h, matchBit_of_ge c habsent]

theorem getLsbD_faultStateBit (f : FaultState) : (faultStateBit f).getLsbD 0 = decide (f = .faulted) := by
  cases f <;> rfl

/-- The high byte of the flag word: the status bits above the match flags, and two reserved zeros. -/
theorem getLsbD_flagWord_status (c : Pwm n) :
    (flagWord c).getLsbD 8 = c.ovf ∧ (flagWord c).getLsbD 9 = c.faultif ∧ (flagWord c).getLsbD 10 = c.cfgerr ∧
    (flagWord c).getLsbD 11 = c.force ∧ (flagWord c).getLsbD 12 = c.enabled ∧
    (flagWord c).getLsbD 13 = decide (c.fstate = .faulted) ∧ (flagWord c).getLsbD 14 = false ∧
    (flagWord c).getLsbD 15 = false := by
  simp only [flagWord, BitVec.getLsbD_append, Nat.reduceLT, Nat.reduceSub, if_true, if_false]
  simp [← getLsbD_faultStateBit]

theorem exec_rdflags (s : State) : exec .rdflags s = .next (accepted (flagWord s.pwm) s.pwm s) :=
  respond_eq_accepted _ s.pwm s

/-- Settles O23: the word answered is the flag word, its low byte read channel by channel and its high byte bit by bit. -/
theorem rdflagsReadsEveryBit : Obligations.RdflagsReadsEveryBit := by
  intro s
  refine ⟨flagWord s.pwm, exec_rdflags s, fun i => ?present, fun k habsent hk => ?absent, getLsbD_flagWord_status s.pwm⟩
  case present =>
    have hchannels : Config.numChannels ≤ 8 := by decide
    exact getLsbD_flagWord_of_present s.pwm (i.isLt.trans_le hchannels) i.isLt
  case absent => exact getLsbD_flagWord_of_absent s.pwm hk habsent

/-! ## Write-one-to-clear (R141) -/

theorem getElem_acknowledge_matchFlag (m : BitVec 10) (c : Pwm n) (i : Fin n) :
    (acknowledge m c).matchFlag[i] = if m.getLsbD i.val then false else c.matchFlag[i] := by
  simp [acknowledge, Bool.and_comm]

/-- `ACK` writes the match flags, `ovf` and `faultif`, and nothing else. -/
theorem acknowledge_writes (m : BitVec 10) (c : Pwm n) :
    acknowledge m c =
      { c with
        matchFlag := (acknowledge m c).matchFlag
        ovf := if m.getLsbD 8 then false else c.ovf
        faultif := if m.getLsbD 9 then false else c.faultif } := by
  simp [acknowledge, Bool.and_comm]

theorem exec_ack (m : BitVec 10) (s : State) : exec (.ack m) s = .next (accepted 0 (acknowledge m s.pwm) s) :=
  respond_eq_accepted 0 _ s

/-- Settles O24: the flag vector is the one `acknowledge` leaves. -/
theorem ackClearsMaskedFlags : Obligations.AckClearsMaskedFlags := by
  intro m s
  refine ⟨(acknowledge m s.pwm).matchFlag, ?_, getElem_acknowledge_matchFlag m s.pwm⟩
  rw [exec_ack, ← acknowledge_writes]

end Sys2Proof.Machine
end

section
/-! PROOFS. The Fault Monitor disturbs nothing else (60_exceptions.md R153, 43_fault.md R134): no check and no write outside the
monitor reads its fields, so two states that differ only there take steps that differ only there. -/

namespace Sys2Proof.Machine

open Sys2Proof.Claims

variable {n : Nat}

/-! ## What is left without the monitor -/

/-- The hardware state with the Fault Monitor's fields and `faultif` at fixed values. -/
def hideMonitor (c : Pwm n) : Pwm n :=
  { c with fstate := .armed, force := false, restart := .latched, safe := .low, evmask := 0, faultif := false }

theorem sameButFault_iff (c d : Pwm n) : sameButFault c d ↔ hideMonitor c = hideMonitor d := by
  cases c
  cases d
  simp [sameButFault, hideMonitor]

/-- The write `f` of the hardware does not let the monitor's fields into the others. -/
def KeepsMonitorApart (f : Pwm n → Pwm n) : Prop := ∀ c, hideMonitor (f c) = hideMonitor (f (hideMonitor c))

theorem KeepsMonitorApart.sameButFault {f : Pwm n → Pwm n} (hf : KeepsMonitorApart f) {c d : Pwm n}
    (h : sameButFault c d) : sameButFault (f c) (f d) := by
  rw [sameButFault_iff] at h ⊢
  rw [hf c, h, ← hf d]

/-! ## The hardware's own steps -/

/-- A write of the monitor's own fields alone is kept apart from the others. -/
theorem keepsMonitorApart_of_hidden {f : Pwm n → Pwm n} (hf : ∀ c, hideMonitor (f c) = hideMonitor c) :
    KeepsMonitorApart f := fun c => by
  rw [hf, hf]
  rfl

theorem keepsMonitorApart_trigger (dest : BitVec 8) (ch : Nat) : KeepsMonitorApart (trigger (n := n) dest ch) :=
  keepsMonitorApart_of_hidden fun c => by
    rw [trigger_writes]
    rfl

theorem hideMonitor_counter (c : Pwm n) :
    (hideMonitor c).cnt = c.cnt ∧ (hideMonitor c).period = c.period ∧ (hideMonitor c).phase = c.phase ∧
    (hideMonitor c).mode = c.mode ∧ (hideMonitor c).direction = c.direction :=
  ⟨rfl, rfl, rfl, rfl, rfl⟩

/-- The count does not look at the monitor. -/
theorem advance_hideMonitor (c : Pwm n) : advance (hideMonitor c) = (hideMonitor (advance c).1, (advance c).2) := by
  simp only [advance, advanceSingleDown, advanceSingleUp, advanceDualDown, advanceDualUp, hideMonitor_counter]
  split <;> (split_ifs <;> rfl)

/-- A tick reads the monitor only for the monitor's own part of a boundary (R81, R128). -/
theorem keepsMonitorApart_tick : KeepsMonitorApart (tick (n := n)) := by
  intro c
  have hboundary : boundaryNext (hideMonitor c) = boundaryNext c := by rw [boundaryNext, advance_hideMonitor, boundaryNext]
  have hactive : tickActive (hideMonitor c) = tickActive c := by
    rw [tickActive, hboundary]
    rfl
  have hraw : tickRaw (hideMonitor c) = tickRaw c := by
    funext i
    simp only [tickRaw, hactive, advance_hideMonitor]
    rfl
  simp only [tick_writes, advance_hideMonitor, hboundary, hactive, hraw]
  rfl

theorem keepsMonitorApart_clk : KeepsMonitorApart (clk (n := n)) := by
  intro c
  unfold clk
  change hideMonitor (if c.enabled = false then c else _) =
    hideMonitor (if c.enabled = false then hideMonitor c else if c.div.toNat ≤ c.presc.toNat + 1 then _ else _)
  split_ifs
  · rfl
  · exact keepsMonitorApart_tick { c with presc := 0 }
  · rfl

/-! ## The commands -/

/-- The states agree on the waiting stimuli and on the hardware but for the monitor. -/
def AgreeButMonitor (s s' : State n) : Prop := sameButFault s.pwm s'.pwm ∧ s.inputs = s'.inputs

/-- From states that agree but for the monitor the meaning `m` goes to such states, and, if it is `silent` about the monitor,
answers the same. -/
def MonitorBlind (silent : Prop) (m : State n → Result n) : Prop :=
  ∀ s s' t t', AgreeButMonitor s s' → m s = .next t → m s' = .next t' →
    AgreeButMonitor t t' ∧ (silent → t.response = t'.response)

theorem monitorBlind_respond {silent : Prop} {data : Pwm n → Ticks} {write : Pwm n → Pwm n}
    (hdata : silent → ∀ c, data c = data (hideMonitor c)) (hwrite : KeepsMonitorApart write) :
    MonitorBlind silent fun s => respond (data s.pwm) (write s.pwm) s := by
  rintro s s' _ _ ⟨hpwm, hinputs⟩ ⟨⟩ ⟨⟩
  refine ⟨⟨hwrite.sameButFault hpwm, hinputs⟩, fun hsilent => ?_⟩
  have hsame : data s.pwm = data s'.pwm := by
    rw [hdata hsilent, (sameButFault_iff _ _).mp hpwm, ← hdata hsilent]
  exact congrArg (fun d => some (okWord d)) hsame

theorem monitorBlind_raiseException {silent : Prop} (e : CmdException) :
    MonitorBlind silent (raiseException (n := n) e) := by
  have hwrite : KeepsMonitorApart (exceptionWrites (n := n) e) := by cases e <;> exact fun _ => rfl
  rintro s s' _ _ ⟨hpwm, hinputs⟩ ⟨⟩ ⟨⟩
  exact ⟨⟨hwrite.sameButFault hpwm, hinputs⟩, fun _ => rfl⟩

/-- A command whose check does not read the monitor and whose write is kept apart from it. -/
theorem monitorBlind_checked {silent : Prop} {rejects : Pwm n → Prop} [DecidablePred rejects] {write : Pwm n → Pwm n}
    (hrejects : ∀ c, rejects c ↔ rejects (hideMonitor c)) (hwrite : KeepsMonitorApart write) :
    MonitorBlind silent fun s => if rejects s.pwm then raiseConfigurationError s else respond 0 (write s.pwm) s := by
  intro s s' t t' h ht ht'
  have hcheck : rejects s.pwm ↔ rejects s'.pwm := by
    rw [hrejects s.pwm, (sameButFault_iff _ _).mp h.1, ← hrejects s'.pwm]
  by_cases hr : rejects s.pwm
  · simp only [if_pos hr] at ht
    simp only [if_pos (hcheck.mp hr)] at ht'
    exact monitorBlind_raiseException _ s s' t t' h ht ht'
  · simp only [if_neg hr] at ht
    simp only [if_neg (hcheck.not.mp hr)] at ht'
    exact monitorBlind_respond (data := fun _ => 0) (fun _ _ => rfl) hwrite s s' t t' h ht ht'

/-- No command of any build but `STATUS` and `RDFLAGS` tells of the monitor, and none lets it into the other fields (R134). -/
theorem execIn_monitorBlind (b : Config.Build) (i : Instr) :
    MonitorBlind (opcodeOf i ≠ 11 ∧ opcodeOf i ≠ 12) (execIn b i) := by
  cases i with
  | cfgcar period dir mode div =>
    exact monitorBlind_checked (rejects := fun c => cfgcarRejected period div c = true)
      (write := loadCarrier period dir mode div) (fun _ => Iff.rfl) fun _ => rfl
  | cfgmax value =>
    exact monitorBlind_checked (rejects := fun c => cfgmaxRejected value c = true)
      (write := fun c => { c with maxDuty := value }) (fun _ => Iff.rfl) fun _ => rfl
  | cfgdt idx low high =>
    unfold execIn execCfgdt
    rcases channelOf_cases b.numChannels idx with hp | ⟨p, hp, -⟩ <;> simp only [hp]
    · exact monitorBlind_raiseException _
    · exact monitorBlind_checked (rejects := fun c => cfgdtRejected low high c = true)
        (write := writeDeadTimes p low high) (fun _ => Iff.rfl) fun _ => rfl
  | cfgflt restart safe mask =>
    exact monitorBlind_checked (rejects := fun c => c.enabled = true)
      (write := fun c => { c with restart := restart, safe := safe, evmask := mask }) (fun _ => Iff.rfl) fun _ => rfl
  | start =>
    exact monitorBlind_checked (rejects := fun c => c.cfgerr = true)
      (write := fun c => { c with enabled := true }) (fun _ => Iff.rfl) fun _ => rfl
  | stop =>
    exact monitorBlind_respond (data := fun _ => 0) (write := fun c => { c with enabled := false }) (fun _ _ => rfl)
      fun _ => rfl
  | wrduty idx value =>
    unfold execIn execWrduty
    rcases channelOf_cases b.numChannels idx with hp | ⟨p, hp, -⟩ <;> simp only [hp]
    · exact monitorBlind_raiseException _
    · exact monitorBlind_checked (rejects := fun c => c.maxDuty < value) (write := writePending p value)
        (fun _ => Iff.rfl) fun _ => rfl
  | rdduty idx sel =>
    unfold execIn execRdduty
    rcases channelOf_cases b.numChannels idx with hp | ⟨p, hp, -⟩ <;> simp only [hp]
    · exact monitorBlind_raiseException _
    · exact monitorBlind_respond (data := readDuty sel p) (write := id) (fun _ _ => by cases sel <;> rfl) fun _ => rfl
  | fire idx =>
    unfold execIn fireFor
    rcases eventChannelOf_cases idx with hc | ⟨ch, hc, -⟩ <;> simp only [hc]
    · exact monitorBlind_raiseException _
    · exact monitorBlind_respond (data := fun _ => 0) (fun _ _ => rfl) (keepsMonitorApart_trigger b.destMask ch.val)
  | clrflt =>
    exact monitorBlind_respond (data := fun _ => 0) (write := fun c => { c with fstate := .armed }) (fun _ _ => rfl)
      fun _ => rfl
  | status =>
    exact monitorBlind_respond (data := fun c => (faultStateBit c.fstate).setWidth 16) (write := id)
      (fun hsilent => absurd rfl hsilent.1) fun _ => rfl
  | rdflags =>
    exact monitorBlind_respond (data := flagWord) (write := id) (fun hsilent => absurd rfl hsilent.2) fun _ => rfl
  | ack mask =>
    exact monitorBlind_respond (data := fun _ => 0) (write := acknowledge mask) (fun _ _ => rfl) fun _ => rfl

theorem exec_monitorBlind (i : Instr) : MonitorBlind (opcodeOf i ≠ 11 ∧ opcodeOf i ≠ 12) (exec i) :=
  exec_eq_execIn ▸ execIn_monitorBlind Config.defaultBuild i

/-! ## The steps -/

/-- A step without a response answers the same from everywhere, so only its write matters. -/
theorem agreeButMonitor_answer {f : Pwm n → Pwm n} (hf : KeepsMonitorApart f) {s s' : State n} (h : AgreeButMonitor s s') :
    AgreeButMonitor (s.answer (f s.pwm) none) (s'.answer (f s'.pwm) none) :=
  ⟨hf.sameButFault h.1, h.2⟩

/-- A word is the same command in both states, or the same refusal. -/
theorem commandStep_monitorBlind (w : Word) :
    MonitorBlind (opcode w ≠ 11 ∧ opcode w ≠ 12) (commandStep (n := Config.numChannels) exec w) := by
  intro s s' t t' h ht ht'
  cases hd : decodeFor Config.numChannels w with
  | ok i =>
    rw [commandStep_of_decodeFor_ok hd] at ht ht'
    rw [opcode_of_decodeFor hd]
    exact exec_monitorBlind i s s' t t' h ht ht'
  | error e =>
    rw [commandStep_of_decodeFor_error hd] at ht ht'
    exact monitorBlind_raiseException _ s s' t t' h ht ht'

/-- One stimulus, taken by its agent in both states. -/
theorem stimulusStep_monitorBlind (x : Stimulus) :
    MonitorBlind (¬isCmd 11 x ∧ ¬isCmd 12 x) (stimulusStep (n := Config.numChannels) exec Config.destMask x) := by
  cases x with
  | cmd w =>
    simp only [isCmd_iff]
    exact commandStep_monitorBlind w
  | clk =>
    rintro s s' _ _ h ⟨⟩ ⟨⟩
    exact ⟨agreeButMonitor_answer keepsMonitorApart_clk h, fun _ => rfl⟩
  | event ch =>
    rintro s s' _ _ h ⟨⟩ ⟨⟩
    exact ⟨agreeButMonitor_answer (keepsMonitorApart_trigger Config.destMask ch.val) h, fun _ => rfl⟩
  | reset =>
    rintro s s' _ _ h ⟨⟩ ⟨⟩
    exact ⟨agreeButMonitor_answer (f := fun _ => Pwm.reset Config.numChannels) (fun _ => rfl) h, fun _ => rfl⟩

theorem isCmd_cmdNext {op : BitVec 4} {s : State} {x : Stimulus} {rest : List Stimulus} (hs : s.inputs = x :: rest)
    (h : isCmd op x) : cmdNext op s := by
  obtain ⟨w, rfl, hop⟩ := h
  exact ⟨w, rest, hs, hop⟩

/-- Settles O47: both states take the same stimulus, and no agent's step lets the monitor into the other fields. -/
theorem faultStateDisturbsNothingElse : Obligations.FaultStateDisturbsNothingElse := by
  intro s s' t t' hinputs hpwm ht ht'
  cases hs : s.inputs with
  | nil =>
    have hs' : s'.inputs = [] := hinputs.symm.trans hs
    simp only [step, nextStep, hs] at ht
    simp only [step, nextStep, hs'] at ht'
    cases ht
    cases ht'
    exact ⟨hpwm, hinputs, fun _ _ => rfl⟩
  | cons x rest =>
    have htake : stimulusStep exec Config.destMask x (s.withInputs rest) = .next t :=
      (nextStep_of_inputs_cons hs).symm.trans ht
    have htake' : stimulusStep exec Config.destMask x (s'.withInputs rest) = .next t' :=
      (nextStep_of_inputs_cons (hinputs.symm.trans hs)).symm.trans ht'
    obtain ⟨⟨hsame, hrest⟩, hresponse⟩ :=
      stimulusStep_monitorBlind x (s.withInputs rest) (s'.withInputs rest) t t' ⟨hpwm, rfl⟩ htake htake'
    exact ⟨hsame, hrest, fun h11 h12 => hresponse ⟨h11 ∘ isCmd_cmdNext hs, h12 ∘ isCmd_cmdNext hs⟩⟩

end Sys2Proof.Machine
end

section
/-! PROOFS. The two exceptions (60_exceptions.md R150 to R152): the complete list of causes of ConfigurationError, IllegalCommand for
an index that names nothing, and a configuration error as the end of every start-up. -/

namespace Sys2Proof.Machine

open Sys2Proof.Claims

/-! ## The causes (R151) -/

theorem lt_of_channelInRange {n : Nat} {idx : Index} (h : channelInRange n idx = true) : idx.toNat < n := of_decide_eq_true h

theorem ge_of_not_channelInRange {n : Nat} {idx : Index} (h : channelInRange n idx = false) : n ≤ idx.toNat :=
  Nat.le_of_not_lt (of_decide_eq_false h)

theorem exec_rejected_of_cause {i : Instr} {s : State} (hwf : i.wf = true) (hcause : configErrorCause i s.pwm) :
    exec i s = .next (rejected s) := by
  cases i with
  | cfgcar period dir mode div => exact exec_cfgcar_of_rejected ((cfgcarRejected_iff period div s.pwm).mpr hcause) dir mode
  | cfgmax value => exact exec_cfgmax_of_rejected ((cfgmaxRejected_iff value s.pwm).mpr hcause)
  | cfgdt idx low high =>
    rw [exec_cfgdt_of_present (lt_of_channelInRange hwf), if_pos ((cfgdtRejected_iff low high s.pwm).mpr hcause)]
  | cfgflt restart safe mask => exact (exec_cfgflt restart safe mask s).trans (if_pos hcause)
  | start => exact exec_start_of_cfgerr hcause
  | wrduty idx value =>
    rw [exec_wrduty_of_present (lt_of_channelInRange hwf), if_pos (BitVec.lt_def.mpr hcause)]
  | stop | rdduty | fire | clrflt | status | rdflags | ack => exact hcause.elim

/-- With no cause the command is accepted: it answers some data and writes something that is not `cfgerr`. -/
theorem exec_accepted_of_no_cause {i : Instr} {s : State} (hwf : i.wf = true) (hcause : ¬configErrorCause i s.pwm) :
    ∃ (d : Ticks) (c : Pwm Config.numChannels), exec i s = .next (accepted d c s) ∧ c.cfgerr = s.pwm.cfgerr := by
  cases i with
  | cfgcar period dir mode div =>
    exact ⟨_, _, exec_cfgcar_of_accepted ((cfgcarRejected_iff period div s.pwm).not.mpr hcause) dir mode, rfl⟩
  | cfgmax value => exact ⟨_, _, exec_cfgmax_of_accepted ((cfgmaxRejected_iff value s.pwm).not.mpr hcause), rfl⟩
  | cfgdt idx low high =>
    rw [exec_cfgdt_of_present (lt_of_channelInRange hwf), if_neg ((cfgdtRejected_iff low high s.pwm).not.mpr hcause)]
    exact ⟨_, _, rfl, rfl⟩
  | cfgflt restart safe mask => exact ⟨_, _, (exec_cfgflt restart safe mask s).trans (if_neg hcause), rfl⟩
  | start => exact ⟨_, _, exec_start_of_not_cfgerr hcause, rfl⟩
  | stop => exact ⟨_, _, exec_stop s, rfl⟩
  | wrduty idx value =>
    rw [exec_wrduty_of_present (lt_of_channelInRange hwf), if_neg (BitVec.lt_def.not.mpr hcause)]
    exact ⟨_, _, rfl, rfl⟩
  | rdduty idx sel => exact ⟨_, _, exec_rdduty_of_present (lt_of_channelInRange hwf) sel s, rfl⟩
  | fire idx => exact ⟨_, _, exec_fire_of_present (of_decide_eq_true hwf) s, by rw [trigger_writes]⟩
  | clrflt => exact ⟨_, _, exec_clrflt s, rfl⟩
  | status => exact ⟨_, _, exec_status s, rfl⟩
  | rdflags => exact ⟨_, _, exec_rdflags s, rfl⟩
  | ack mask => exact ⟨_, _, exec_ack mask s, rfl⟩

/-- Settles O26: with a cause the command is rejected, without one it is accepted. -/
theorem configurationErrorCausesComplete : Obligations.ConfigurationErrorCausesComplete := by
  intro i s hwf
  refine ⟨exec_rejected_of_cause hwf, fun hcause => ?_⟩
  obtain ⟨d, c, hexec, hcfgerr⟩ := exec_accepted_of_no_cause hwf hcause
  exact ⟨accepted d c s, d, hexec, rfl, hcfgerr⟩

/-! ## An index that names nothing (R152) -/

/-- Settles O25: only the four commands with an index can be ill formed. -/
theorem illFormedCommandIsIllegal : Obligations.IllFormedCommandIsIllegal := by
  intro i s hwf
  cases i with
  | cfgdt idx low high => exact exec_cfgdt_of_absent (ge_of_not_channelInRange hwf) low high s
  | wrduty idx value => exact exec_wrduty_of_absent (ge_of_not_channelInRange hwf) value s
  | rdduty idx sel => exact exec_rdduty_of_absent (ge_of_not_channelInRange hwf) sel s
  | fire idx => exact exec_fire_of_absent (Nat.le_of_not_lt (of_decide_eq_false hwf)) s
  | cfgcar | cfgmax | cfgflt | start | stop | clrflt | status | rdflags | ack => exact Bool.noConfusion hwf

/-! ## Fatal to start-up (R151, R178) -/

/-- A step takes the oldest stimulus off the list (R7). -/
theorem step_inputs {s t : State} (h : step s = .next t) : t.inputs = s.inputs.tail := by
  rcases step_cases h with ⟨hs, rfl⟩ | ⟨w, rest, hs, hw⟩ | ⟨rest, hs, rfl⟩ | ⟨ch, rest, hs, rfl⟩ | ⟨rest, hs, rfl⟩ <;>
    rw [hs]
  · exact hs
  · rcases commandStep_cases hw with ⟨i, -, hi⟩ | ⟨e, -, he⟩
    · exact exec_inputs hi
    · obtain ⟨-, hrest, -⟩ := raiseIllegalCommand_eq_next he
      exact hrest
  all_goals rfl

/-- A configuration error is recorded and the carrier stands. -/
structure DeadBeforeStart {n : Nat} (c : Pwm n) : Prop where
  cfgerr : c.cfgerr = true
  stopped : c.enabled = false

section

variable {n : Nat} {dest : BitVec 8} {c c' : Pwm n}

/-- `START` is the only command that sets `enabled`, and it is refused while `cfgerr` is set (R72). -/
theorem DeadBeforeStart.of_accepts {i : Instr} {d : Ticks} (h : DeadBeforeStart c) (ha : Accepts dest c i c' d) :
    DeadBeforeStart c' := by
  refine ⟨ha.cfgerr_unchanged.trans h.cfgerr, ?_⟩
  cases ha with
  | start guard => exact absurd (h.cfgerr.symm.trans guard) nofun
  | stop => rfl
  | fire => rw [trigger_writes]; exact h.stopped
  | _ => exact h.stopped

/-- Only a `RESET` leads out: a clock does nothing to a stopped carrier, an event moves the Fault Monitor alone. -/
theorem DeadBeforeStart.of_hardwareStep {x : Option Stimulus} {r : Option Word} (h : DeadBeforeStart c)
    (hs : HardwareStep dest c x c' r) (hreset : x ≠ some .reset) : DeadBeforeStart c' := by
  cases hs with
  | idle => exact h
  | command _ answer =>
    cases answer with
    | accepted ha => exact h.of_accepts ha
    | rejected => exact ⟨rfl, h.stopped⟩
    | illegal => exact h
  | noCommand => exact h
  | clk => rwa [clk_of_stopped h.stopped]
  | event ch => rw [trigger_writes]; exact ⟨h.cfgerr, h.stopped⟩
  | reset => exact absurd rfl hreset

end

theorem DeadBeforeStart.of_reaches {s t : State} (h : DeadBeforeStart s.pwm) (hreset : .reset ∉ s.inputs)
    (hrun : Reaches s t) : DeadBeforeStart t.pwm ∧ .reset ∉ t.inputs := by
  induction hrun with
  | refl => exact ⟨h, hreset⟩
  | tail _ hstep ih =>
    obtain ⟨hdead, hno⟩ := ih
    refine ⟨hdead.of_hardwareStep (step_hardware hstep) fun hx => hno (List.mem_of_mem_head? hx), ?_⟩
    rw [step_inputs hstep]
    exact fun hmem => hno (List.mem_of_mem_tail hmem)

/-- Settles O51: no step but `RESET` leaves such a state, and a stopped carrier's outputs are inactive. -/
theorem configurationErrorFatalToStartup : Obligations.ConfigurationErrorFatalToStartup := by
  intro s t hcfgerr hstopped hreset hrun
  obtain ⟨hdead, -⟩ := DeadBeforeStart.of_reaches ⟨hcfgerr, hstopped⟩ hreset hrun
  exact ⟨hdead.cfgerr, hdead.stopped, outputs_inactive_of_stopped hdead.stopped⟩

end Sys2Proof.Machine
end

section
/-! PROOFS. The request lines (60_exceptions.md R154): a step without `ACK` and `RESET` only raises flags, and an `ACK` clears those of
its mask. -/

namespace Sys2Proof.Machine

open Sys2Proof.Claims

section

variable {n : Nat} {dest : BitVec 8} {c c' : Pwm n}

/-- Every flag with a request line that is set in `c` is set in `c'`. -/
structure LinesHeld (c c' : Pwm n) : Prop where
  fault : irqFault c = true → irqFault c' = true
  ovf : irqOvf c = true → irqOvf c' = true
  compareMatch : ∀ i : Fin n, irqMatch c i = true → irqMatch c' i = true

theorem linesHeld_of_eq (hfault : c'.faultif = c.faultif) (hovf : c'.ovf = c.ovf) (hmatch : c'.matchFlag = c.matchFlag) :
    LinesHeld c c' where
  fault h := hfault.trans h
  ovf h := hovf.trans h
  compareMatch i h := by rwa [irqMatch, hmatch]

theorem trigger_linesHeld (ch : Nat) (c : Pwm n) : LinesHeld c (trigger dest ch c) := by
  rcases trigger_cases dest ch c with ⟨-, -, latched⟩ | ⟨-, dropped⟩
  · rw [latched]
    exact ⟨fun _ => rfl, id, fun _ => id⟩
  · rw [dropped]
    exact ⟨id, id, fun _ => id⟩

/-- The flags are sticky: a tick adds to them (R19, R85, R94). -/
theorem tick_linesHeld (c : Pwm n) : LinesHeld c (tick c) where
  fault h := by simpa [irqFault, tick_writes] using h
  ovf h := by simp [irqOvf, tick_writes, show c.ovf = true from h]
  compareMatch i h := by rw [irqMatch, tick_matchFlag, show c.matchFlag[i] = true from h, Bool.true_or]

theorem clk_linesHeld (c : Pwm n) : LinesHeld c (clk c) := by
  rcases clk_cases c with ⟨-, hc⟩ | ⟨-, -, hc⟩ | ⟨-, -, -, hc⟩ <;> rw [hc]
  · exact linesHeld_of_eq rfl rfl rfl
  · rw [tick_presc]
    exact { tick_linesHeld c with }
  · exact linesHeld_of_eq rfl rfl rfl

/-- An accepted command is an `ACK`, or holds the lines. -/
theorem Accepts.ack_or_linesHeld {i : Instr} {d : Ticks} (ha : Accepts dest c i c' d) :
    (∃ m, i = .ack m ∧ c' = acknowledge m c) ∨ LinesHeld c c' := by
  cases ha with
  | @ack m => exact .inl ⟨m, rfl, rfl⟩
  | fire ch => exact .inr (trigger_linesHeld ch.val c)
  | _ => exact .inr (linesHeld_of_eq rfl rfl rfl)

/-- A step other than `RESET` is an `ACK`, or holds the lines. -/
theorem HardwareStep.ack_or_linesHeld {x : Option Stimulus} {r : Option Word} (hs : HardwareStep dest c x c' r)
    (hreset : x ≠ some .reset) :
    (∃ m, x = some (.cmd (encode (.ack m))) ∧ c' = acknowledge m c) ∨ LinesHeld c c' := by
  cases hs with
  | idle => exact .inr (linesHeld_of_eq rfl rfl rfl)
  | command decoded answer =>
    cases answer with
    | accepted ha =>
      rcases ha.ack_or_linesHeld with ⟨m, rfl, hc⟩ | held
      · obtain ⟨hword, -⟩ := encodeOfDecode _ _ _ decoded
        exact .inl ⟨m, by rw [hword], hc⟩
      · exact .inr held
    | rejected => exact .inr (linesHeld_of_eq rfl rfl rfl)
    | illegal => exact .inr (linesHeld_of_eq rfl rfl rfl)
  | noCommand => exact .inr (linesHeld_of_eq rfl rfl rfl)
  | clk => exact .inr (clk_linesHeld c)
  | event ch => exact .inr (trigger_linesHeld ch.val c)
  | reset => exact absurd rfl hreset

/-- An `ACK` takes a line down only if its mask has the line's bit (R141). -/
theorem mask_of_acknowledge (m : BitVec 10) (c : Pwm n) :
    (irqFault c = true → irqFault (acknowledge m c) = false → m.getLsbD 9 = true) ∧
    (irqOvf c = true → irqOvf (acknowledge m c) = false → m.getLsbD 8 = true) ∧
    (∀ i : Fin n, irqMatch c i = true → irqMatch (acknowledge m c) i = false → m.getLsbD i.val = true) := by
  refine ⟨fun h h' => ?_, fun h h' => ?_, fun i h h' => ?_⟩
  · rw [irqFault] at h
    simpa [irqFault, acknowledge, h] using h'
  · rw [irqOvf] at h
    simpa [irqOvf, acknowledge, h] using h'
  · rw [irqMatch] at h
    rw [irqMatch, getElem_acknowledge_matchFlag, h] at h'
    simpa using h'

end

/-- Settles O49: a line that falls was not held, so the step is an `ACK`, and its mask has the line's bit. -/
theorem requestLinesHoldUntilAck : Obligations.RequestLinesHoldUntilAck := by
  refine ⟨fun c => ⟨rfl, rfl, fun _ => rfl⟩, fun s t hstep hreset => ?_⟩
  simp only [exists_and_right, ← List.head?_eq_some_iff]
  rcases (step_hardware hstep).ack_or_linesHeld ((resetNext_iff s).not.mp hreset) with ⟨m, hx, hc⟩ | held
  · obtain ⟨hfault, hovf, hmatch⟩ := mask_of_acknowledge m s.pwm
    rw [hc]
    exact ⟨fun h h' => ⟨m, hx, hfault h h'⟩, fun h h' => ⟨m, hx, hovf h h'⟩, fun i h h' => ⟨m, hx, hmatch i h h'⟩⟩
  · exact
      ⟨fun h h' => absurd ((held.fault h).symm.trans h') nofun, fun h h' => absurd ((held.ovf h).symm.trans h') nofun,
        fun i h h' => absurd ((held.compareMatch i h).symm.trans h') nofun⟩

end Sys2Proof.Machine
end

section
/-! PROOFS. The reference host's priority (60_exceptions.md R156): the first high line of the list is found line by line. -/

namespace Sys2Proof.Machine

variable {n : Nat}

/-- The host looks at the fault line, then for the first match line that is high, then at the boundary line. -/
theorem highestRequest_eq (c : Pwm n) :
    highestRequest c =
      if irqFault c then some .fault
      else match Fin.find? (irqMatch c) with
        | some i => some (.compareMatch i)
        | none => if irqOvf c then some .periodBoundary else none := by
  have hfind : Fin.find? (irqMatch c) = ((List.finRange n).filter fun i => irqMatch c i).head? :=
    Fin.find?_eq_find?_finRange.trans List.head?_filter.symm
  rw [hfind, highestRequest, highRequests]
  cases irqFault c with
  | true => rfl
  | false =>
    cases (List.finRange n).filter fun i => irqMatch c i with
    | cons i rest => rfl
    | nil => cases irqOvf c <;> rfl

/-- Settles O58: the first high line of the channels is the one `Fin.find?` finds. -/
theorem requestPriority : Obligations.RequestPriority := by
  intro n c
  have hfirst (i : Fin n) : (irqMatch c i = true ∧ ∀ j : Fin n, j.val < i.val → irqMatch c j = false) ↔
      Fin.find? (irqMatch c) = some i := Fin.find?_eq_some_iff.symm
  have hnone : (∀ i : Fin n, irqMatch c i = false) ↔ Fin.find? (irqMatch c) = none := Fin.find?_eq_none_iff.symm
  simp only [highestRequest_eq, hfirst, hnone]
  cases irqFault c with
  | true => simp
  | false =>
    cases Fin.find? (irqMatch c) with
    | some i => simp
    | none => cases irqOvf c <;> simp

end Sys2Proof.Machine
end

section
/-! PROOFS. The commands of the reference handlers, in every build (60_exceptions.md R158, R161): what each one answers and
writes. -/

namespace Sys2Proof.Machine

variable {n : Nat}

/-- The data of an accepted command is what the host reads out of the response (R53). -/
theorem answeredData_answer (c : Pwm n) (d : Ticks) (s : State n) :
    answeredData (s.answer c (some (okWord d))) = d.toNat := by
  have hdata : responseData (okWord d) = d := by
    rw [okWord_eq_place, responseData, field_place_same 0 d (by decide)]
  exact congrArg BitVec.toNat hdata

/-- With at most eight channels `indexOf` names its channel (R6). -/
theorem channelOf_indexOf (hn : n ≤ 8) (i : Fin n) : channelOf n (indexOf i) = some i := by
  have hidx : (indexOf i).toNat = i.val := by
    rw [indexOf, BitVec.toNat_ofNat]
    omega
  rw [channelOf_of_lt (by omega)]
  exact congrArg some (Fin.ext hidx)

/-- The mask `1 << k` has bit `k` and no other. -/
theorem getLsbD_bitMask {k j : Nat} (hj : j < 10) : (BitVec.ofNat 10 (2 ^ k)).getLsbD j = decide (k = j) := by
  rw [BitVec.getLsbD_ofNat, Nat.testBit_two_pow, decide_eq_true hj, Bool.true_and]

theorem acknowledge_match (hn : n ≤ 8) (i : Fin n) (c : Pwm n) :
    acknowledge (BitVec.ofNat 10 (2 ^ i.val)) c = { c with matchFlag := c.matchFlag.set i false } := by
  have hbit (j : Nat) (hj : j < 10) := getLsbD_bitMask (k := i.val) hj
  have hflags : (acknowledge (BitVec.ofNat 10 (2 ^ i.val)) c).matchFlag = c.matchFlag.set i false := by
    ext j hj
    have helem := getElem_acknowledge_matchFlag (BitVec.ofNat 10 (2 ^ i.val)) c ⟨j, hj⟩
    rw [Fin.getElem_fin] at helem
    rw [helem, hbit j (by omega), Vector.getElem_set]
    simp
  rw [acknowledge_writes, hflags, hbit 8 (by omega), hbit 9 (by omega)]
  simp [show i.val ≠ 8 by omega, show i.val ≠ 9 by omega]

/-- A mask without the bits of the channels leaves the match flags alone. -/
theorem acknowledge_matchFlag_of_low (hn : n ≤ 8) {m : BitVec 10} (hm : ∀ j, j < 8 → m.getLsbD j = false) (c : Pwm n) :
    (acknowledge m c).matchFlag = c.matchFlag := by
  ext j hj
  have helem := getElem_acknowledge_matchFlag m c ⟨j, hj⟩
  rw [Fin.getElem_fin] at helem
  rw [helem, hm j (by omega)]
  rfl

theorem acknowledge_fault (hn : n ≤ 8) (c : Pwm n) : acknowledge 0x200 c = { c with faultif := false } := by
  rw [acknowledge_writes, acknowledge_matchFlag_of_low hn (by decide)]
  rfl

theorem acknowledge_boundary (hn : n ≤ 8) (c : Pwm n) : acknowledge 0x100 c = { c with ovf := false } := by
  rw [acknowledge_writes, acknowledge_matchFlag_of_low hn (by decide)]
  rfl

section

variable (b : Config.Build) (i : Fin b.numChannels) (s : State b.numChannels)

theorem execIn_rampRead : execIn b (rampRead i) s = .next (s.answer s.pwm (some (okWord s.pwm.active[i]))) := by
  simp only [rampRead, execIn, execRdduty, channelOf_indexOf b.legal.2]
  rfl

/-- The handler's write is accepted if the value is no larger than the maximum (R90). -/
theorem execIn_rampWrite {v : Nat} (hv : v ≤ s.pwm.maxDuty.toNat) :
    execIn b (rampWrite i v) s = .next (s.answer (writePending i (BitVec.ofNat 16 v) s.pwm) (some (okWord 0))) := by
  have haccepted : ¬s.pwm.maxDuty < BitVec.ofNat 16 v := by
    rw [BitVec.lt_def, BitVec.toNat_ofNat]
    omega
  simp only [rampWrite, execIn, execWrduty, channelOf_indexOf b.legal.2, if_neg haccepted]
  rfl

theorem execIn_rampAck :
    execIn b (rampAck i) s =
      .next (s.answer { s.pwm with matchFlag := s.pwm.matchFlag.set i false } (some (okWord 0))) := by
  simp only [rampAck, execIn, execAck, acknowledge_match b.legal.2]
  rfl

theorem execIn_ackFault :
    execIn b (.ack 0x200) s = .next (s.answer { s.pwm with faultif := false } (some (okWord 0))) := by
  simp only [execIn, execAck, acknowledge_fault b.legal.2]
  rfl

theorem execIn_ackBoundary :
    execIn b (.ack 0x100) s = .next (s.answer { s.pwm with ovf := false } (some (okWord 0))) := by
  simp only [execIn, execAck, acknowledge_boundary b.legal.2]
  rfl

end

end Sys2Proof.Machine
end

section
/-! PROOFS. The ramp law (60_exceptions.md R159): each invocation moves `pending` one step along the ramp, each boundary takes
`active` there, and no other step of a ramp run writes either. -/

namespace Sys2Proof.Machine

open Sys2Proof.Claims

/-- `v` is the value of the ramp from `a0` after `k` invocations: congruent to `a0 + k*inc`, and reduced once the handler has
reduced it. -/
structure OnRamp (maxd a0 inc k v : Nat) : Prop where
  congruent : v % maxd = (a0 + k * inc) % maxd
  reduced : 1 ≤ k → v < maxd

section

variable {maxd a0 inc k v : Nat}

theorem onRamp_start : OnRamp maxd a0 inc 0 a0 := ⟨by rw [Nat.zero_mul, Nat.add_zero], by omega⟩

/-- The handler's sum is the next value of the ramp (R158). -/
theorem OnRamp.next (h : OnRamp maxd a0 inc k v) (hmaxd : 0 < maxd) : OnRamp maxd a0 inc (k + 1) ((v + inc) % maxd) where
  congruent :=
    calc (v + inc) % maxd % maxd
      _ = (v + inc) % maxd := Nat.mod_mod _ _
      _ = (a0 + k * inc + inc) % maxd := Nat.ModEq.add_right inc h.congruent
      _ = (a0 + (k + 1) * inc) % maxd := by rw [Nat.add_assoc, ← Nat.succ_mul]
  reduced _ := Nat.mod_lt _ hmaxd

theorem OnRamp.eq_mod (h : OnRamp maxd a0 inc k v) (hk : 1 ≤ k) : v = (a0 + k * inc) % maxd := by
  rw [← h.congruent, Nat.mod_eq_of_lt (h.reduced hk)]

end

/-- What the registers `active` and `pending` of the channel hold at a stage of its handler. -/
def StageOnRamp (maxd a0 inc k : Nat) (g : RampStage) (active pending : Ticks) : Prop :=
  match g with
  | .waiting => OnRamp maxd a0 inc k active.toNat
  | .read a => OnRamp maxd a0 inc k a
  | .written => OnRamp maxd a0 inc (k + 1) pending.toNat
  | .done => 1 ≤ k ∧ OnRamp maxd a0 inc k pending.toNat

theorem clk_maxDuty {n : Nat} (c : Pwm n) : (clk c).maxDuty = c.maxDuty := by
  rcases clk_cases c with ⟨-, hc⟩ | ⟨-, -, hc⟩ | ⟨-, -, -, hc⟩ <;> rw [hc]
  rw [tick_writes]

theorem step_boundary_maxDuty {s t : State} (hb : boundaryClk s) (hstep : step s = .next t) :
    t.pwm.maxDuty = s.pwm.maxDuty := by
  obtain ⟨⟨rest, hs⟩, -⟩ := hb
  rw [step_clk_pwm hs hstep, clk_maxDuty]

section

variable {h : RampHost} {i : Fin Config.numChannels} {s s0 t : State}

theorem rampRead_writes (hread : exec (rampRead i) s = .next t) :
    t.pwm = s.pwm ∧ answeredData t = (s.pwm.active[i]).toNat := by
  cases ((congrFun₂ exec_eq_execIn _ _).trans (execIn_rampRead Config.defaultBuild i s)).symm.trans hread
  exact ⟨rfl, answeredData_answer _ _ _⟩

theorem rampWrite_writes {v : Nat} (hv : v ≤ s.pwm.maxDuty.toNat) (hwrite : exec (rampWrite i v) s = .next t) :
    t.pwm.maxDuty = s.pwm.maxDuty ∧ (t.pwm.pending[i]).toNat = v := by
  have hexec : exec (rampWrite i v) s = .next (s.answer (writePending i (BitVec.ofNat 16 v) s.pwm) (some (okWord 0))) :=
    (congrFun₂ exec_eq_execIn _ _).trans (execIn_rampWrite Config.defaultBuild i s hv)
  cases hexec.symm.trans hwrite
  refine ⟨rfl, ?_⟩
  rw [answer_pwm, writePending_pending, Fin.getElem_fin, Vector.getElem_set_self, BitVec.toNat_ofNat]
  omega

theorem rampAck_writes (hack : exec (rampAck i) s = .next t) :
    t.pwm.maxDuty = s.pwm.maxDuty ∧ t.pwm.pending = s.pwm.pending := by
  cases ((congrFun₂ exec_eq_execIn _ _).trans (execIn_rampAck Config.defaultBuild i s)).symm.trans hack
  exact ⟨rfl, rfl⟩

/-- Along a ramp run the handler's `MAXD` stays a legal duty value, and the registers are where the handler's stage has them. -/
theorem stageOnRamp_of_rampRun {k : Nat} {g : RampStage} (hmaxd : 0 < h.maxd) (hle : h.maxd ≤ s0.pwm.maxDuty.toNat)
    (hrun : RampRun h i s0 k g t) :
    h.maxd ≤ t.pwm.maxDuty.toNat ∧
    StageOnRamp h.maxd (s0.pwm.active[i]).toNat h.inc[i] k g t.pwm.active[i] t.pwm.pending[i] := by
  induction hrun with
  | start => exact ⟨hle, onRamp_start⟩
  | @between k g s t _ hb hr hstep hwrite hmax ih =>
    have hactive := step_active_unchanged hb hr hstep
    have hpending := (step_hardware hstep).pending_unchanged i ((resetNext_iff s).not.mp hr)
      fun v => (writesDuty_iff i v s t).not.mp (hwrite v)
    refine ⟨hmax, ?_⟩
    rw [hactive, hpending]
    exact ih.2
  | read _ hread ih =>
    obtain ⟨hpwm, hdata⟩ := rampRead_writes hread
    rw [hpwm, hdata]
    exact ih
  | @write k a v s t _ hvalue hwrite ih =>
    obtain ⟨hmax, hramp⟩ := ih
    obtain rfl : (a + h.inc[i]) % h.maxd = v := Option.some.inj ((rampValue_of_pos hmaxd _ _).symm.trans hvalue)
    have hlt := Nat.mod_lt (a + h.inc[i]) hmaxd
    obtain ⟨hkept, hpending⟩ := rampWrite_writes (hlt.le.trans hmax) hwrite
    refine ⟨hkept ▸ hmax, ?_⟩
    rw [StageOnRamp, hpending]
    exact OnRamp.next hramp hmaxd
  | acknowledge _ hack ih =>
    obtain ⟨hmax, hramp⟩ := ih
    obtain ⟨hkept, hpending⟩ := rampAck_writes hack
    exact ⟨hkept ▸ hmax, Nat.le_add_left _ _, hpending ▸ hramp⟩
  | boundary _ hb hstep ih =>
    obtain ⟨hmax, -, hramp⟩ := ih
    exact ⟨step_boundary_maxDuty hb hstep ▸ hmax, step_boundary_active hb hstep ▸ hramp⟩
  | idleBoundary _ hpromoted hb hstep ih =>
    obtain ⟨hmax, hramp⟩ := ih
    rw [← hpromoted] at hramp
    exact ⟨step_boundary_maxDuty hb hstep ▸ hmax, step_boundary_active hb hstep ▸ hramp⟩

end

/-- Settles O60: a reduced value of the ramp is the one the law names. -/
theorem rampLaw : Obligations.RampLaw := by
  intro h i s0 t k g hmaxd hle hrun
  obtain ⟨-, hstage⟩ := stageOnRamp_of_rampRun hmaxd hle hrun
  constructor
  · rintro rfl
    obtain ⟨hk, hramp⟩ := hstage
    exact hramp.eq_mod hk
  · rintro rfl hk
    exact OnRamp.eq_mod hstage hk

end Sys2Proof.Machine
end

section
/-! PROOFS. The reference dispatcher (60_exceptions.md R157): the handler of a line as one write of the hardware, and then one line after
another until all are low. -/

namespace Sys2Proof.Machine

variable {n : Nat}

/-! ## What is served -/

/-- The next duty value of channel `i` on its ramp (R158). -/
def rampNext (h : RampHost n) (c : Pwm n) (i : Fin n) : Ticks := BitVec.ofNat 16 (((c.active[i]).toNat + h.inc[i]) % h.maxd)

/-- What the handler of `r` writes in all, when the application wants nothing (R158, R161). -/
def serve (h : RampHost n) (r : Request n) (c : Pwm n) : Pwm n :=
  match r with
  | .fault => { c with faultif := false }
  | .compareMatch i => { c with pending := c.pending.set i (rampNext h c i), matchFlag := c.matchFlag.set i false }
  | .periodBoundary => { c with ovf := false }

/-- The pending duty values when every high match line has been served. -/
def pendingAfter (h : RampHost n) (c : Pwm n) : Vector Ticks n :=
  Vector.ofFn fun i => if c.matchFlag[i] then rampNext h c i else c.pending[i]

/-- What is left when every high line has been served. -/
def serveAll (h : RampHost n) (c : Pwm n) : Pwm n :=
  { c with
    pending := pendingAfter h c
    matchFlag := Vector.replicate n false
    ovf := false
    faultif := false }

/-- The host's moves for one line: entering the handler, and the handler's own. -/
def movesFor (r : Request n) : Nat :=
  match r with
  | .fault => 3
  | .compareMatch _ => 4
  | .periodBoundary => 2

/-- The host's moves for all lines that are high. -/
def movesForAll (c : Pwm n) : Nat := 3 * c.faultif.toNat + 4 * c.matchFlag.count true + 2 * c.ovf.toNat

theorem movesForAll_le (c : Pwm n) : movesForAll c ≤ 4 * n + 5 := by
  have hfault := Bool.toNat_le c.faultif
  have hcount : c.matchFlag.count true ≤ n := Vector.count_le_size
  have hovf := Bool.toNat_le c.ovf
  unfold movesForAll
  omega

/-- The line of the request `r` is high (R154). -/
def lineHigh (r : Request n) (c : Pwm n) : Prop :=
  match r with
  | .fault => c.faultif = true
  | .compareMatch i => c.matchFlag[i.val] = true
  | .periodBoundary => c.ovf = true

/-- The line the host serves next is high (R156). -/
theorem lineHigh_of_highestRequest {c : Pwm n} {r : Request n} (hr : highestRequest c = some r) : lineHigh r c := by
  obtain ⟨hfault, hmatch, hovf, -⟩ := requestPriority n c
  cases r with
  | fault => exact hfault.mp hr
  | compareMatch i =>
    obtain ⟨-, hi, -⟩ := (hmatch i).mp hr
    exact hi
  | periodBoundary =>
    obtain ⟨-, -, ho⟩ := hovf.mp hr
    exact ho

theorem movesForAll_serve (h : RampHost n) {c : Pwm n} {r : Request n} (hr : lineHigh r c) :
    movesFor r + movesForAll (serve h r c) = movesForAll c := by
  cases r with
  | fault =>
    have hflag : c.faultif = true := hr
    simp only [movesForAll, movesFor, serve, hflag, Bool.toNat_true, Bool.toNat_false]
    omega
  | compareMatch i =>
    have hflag : c.matchFlag[i.val] = true := hr
    have hpos : 0 < c.matchFlag.count true := Vector.count_pos_iff.mpr (hflag ▸ Vector.getElem_mem i.isLt)
    have hcount : (c.matchFlag.set i false).count true = c.matchFlag.count true - 1 := by
      simp [Vector.count_set, hflag]
    simp only [movesForAll, movesFor, serve, hcount]
    omega
  | periodBoundary =>
    have hflag : c.ovf = true := hr
    simp only [movesForAll, movesFor, serve, hflag, Bool.toNat_true, Bool.toNat_false]
    omega

/-- A channel that is served has its next value pending already, and the others still see their own flag. -/
theorem pendingAfter_serve_match (h : RampHost n) {c : Pwm n} {i : Fin n} (hi : lineHigh (.compareMatch i) c) :
    pendingAfter h (serve h (.compareMatch i) c) = pendingAfter h c := by
  have hflag : c.matchFlag[i.val] = true := hi
  ext j hj
  by_cases hij : i.val = j
  · subst hij
    simp [pendingAfter, serve, hflag]
  · simp [pendingAfter, serve, hij, rampNext]

/-- Serving one line does not change what is left at the end. -/
theorem serveAll_serve (h : RampHost n) {c : Pwm n} {r : Request n} (hr : lineHigh r c) :
    serveAll h (serve h r c) = serveAll h c := by
  cases r with
  | fault => rfl
  | periodBoundary => rfl
  | compareMatch i =>
    rw [serveAll, pendingAfter_serve_match h hr]
    rfl

/-- With every line low there is nothing to serve. -/
theorem serveAll_of_none (h : RampHost n) {c : Pwm n} (hr : highestRequest c = none) : serveAll h c = c := by
  obtain ⟨-, -, -, hnone⟩ := requestPriority n c
  obtain ⟨hfault, hmatch, hovf⟩ := hnone.mp hr
  have hflags : Vector.replicate n false = c.matchFlag := by
    ext j hj
    rw [Vector.getElem_replicate]
    exact (hmatch ⟨j, hj⟩).symm
  have hpending : pendingAfter h c = c.pending := by
    ext j hj
    simp [pendingAfter, show c.matchFlag[j] = false from hmatch ⟨j, hj⟩]
  rw [serveAll, hpending, hflags]
  exact (congrArg₂ (fun ovf faultif => { c with ovf := ovf, faultif := faultif }) hovf hfault).symm

/-! ## The host's moves -/

theorem hostMove_of_high {run : Executor n} (h : RampHost n) (app : Option Word) {s : State n} {r : Request n}
    (hr : highestRequest s.pwm = some r) :
    hostMove run h app { machine := s, host := .dispatching } =
      some (.next { machine := s, host := .inHandler (handlerOf r) }) := by
  simp only [hostMove, dispatchMove, hr]

/-- With every line low and nothing wanted by the application, the host waits (R157). -/
theorem hostMove_of_low {run : Executor n} (h : RampHost n) {s : State n} (hr : highestRequest s.pwm = none) :
    hostMove run h none { machine := s, host := .dispatching } = some (.next { machine := s, host := .waiting }) := by
  simp only [hostMove, dispatchMove, hr, applicationTurn, goOn_next]

section

variable (b : Config.Build) (h : RampHost b.numChannels) (app : Option Word) (s : State b.numChannels)

/-- The fault handler's one command of its own (R161). -/
theorem hostMove_faultAck :
    hostMove (execIn b) h app { machine := s, host := .inHandler .faultAck } =
      some (.next
        { machine := s.answer { s.pwm with faultif := false } (some (okWord 0)), host := .inHandler .faultApplication }) := by
  simp only [hostMove, handlerMove, execIn_ackFault, goOn_next]

theorem hostMove_faultApplication_none :
    hostMove (execIn b) h none { machine := s, host := .inHandler .faultApplication } =
      some (.next { machine := s, host := .dispatching }) := rfl

theorem hostMove_rampRead (hmaxd : 0 < h.maxd) (i : Fin b.numChannels) :
    hostMove (execIn b) h app { machine := s, host := .inHandler (.rampRead i) } =
      some (.next
        { machine := s.answer s.pwm (some (okWord s.pwm.active[i]))
          host := .inHandler (.rampWrite i (((s.pwm.active[i]).toNat + h.inc[i]) % h.maxd)) }) := by
  simp only [hostMove, handlerMove, execIn_rampRead, afterRead, answeredData_answer, rampValue_of_pos hmaxd, Option.map_some]

theorem hostMove_rampWrite {v : Nat} (hv : v ≤ s.pwm.maxDuty.toNat) (i : Fin b.numChannels) :
    hostMove (execIn b) h app { machine := s, host := .inHandler (.rampWrite i v) } =
      some (.next
        { machine := s.answer (writePending i (BitVec.ofNat 16 v) s.pwm) (some (okWord 0))
          host := .inHandler (.rampAck i) }) := by
  simp only [hostMove, handlerMove, execIn_rampWrite b i s hv, goOn_next]

theorem hostMove_rampAck (i : Fin b.numChannels) :
    hostMove (execIn b) h app { machine := s, host := .inHandler (.rampAck i) } =
      some (.next
        { machine := s.answer { s.pwm with matchFlag := s.pwm.matchFlag.set i false } (some (okWord 0))
          host := .dispatching }) := by
  simp only [hostMove, handlerMove, execIn_rampAck, goOn_next]

theorem hostMove_boundaryAck :
    hostMove (execIn b) h app { machine := s, host := .inHandler .boundaryAck } =
      some (.next { machine := s.answer { s.pwm with ovf := false } (some (okWord 0)), host := .dispatching }) := by
  simp only [hostMove, handlerMove, execIn_ackBoundary, goOn_next]

end

/-! ## The dispatcher -/

/-- The hardware and the response as the dispatcher leaves them. -/
def afterDispatch (h : RampHost n) (s : State n) : State n :=
  s.answer (serveAll h s.pwm) (if highestRequest s.pwm = none then s.response else some (okWord 0))

theorem serve_maxDuty (h : RampHost n) (r : Request n) (c : Pwm n) : (serve h r c).maxDuty = c.maxDuty := by
  cases r <;> rfl

theorem afterDispatch_of_none (h : RampHost n) {s : State n} (hr : highestRequest s.pwm = none) : afterDispatch h s = s := by
  rw [afterDispatch, serveAll_of_none h hr, if_pos hr]
  rfl

theorem afterDispatch_serve (h : RampHost n) {s : State n} {r : Request n} (hr : highestRequest s.pwm = some r) :
    afterDispatch h (s.answer (serve h r s.pwm) (some (okWord 0))) = afterDispatch h s := by
  rw [afterDispatch, afterDispatch, answer_pwm, serveAll_serve h (lineHigh_of_highestRequest hr), answer_response, ite_self, hr,
    if_neg (Option.some_ne_none r)]
  rfl

section

variable {b : Config.Build} {h : RampHost b.numChannels} {s : State b.numChannels}

/-- The highest line is served, and the host is at its dispatcher again. -/
theorem dispatch_of_high (hmaxd : 0 < h.maxd) (hle : h.maxd ≤ s.pwm.maxDuty.toNat) {r : Request b.numChannels}
    (hr : highestRequest s.pwm = some r) (fuel : Nat) :
    dispatch (execIn b) h (fuel + movesFor r) { machine := s, host := .dispatching } =
      dispatch (execIn b) h fuel { machine := s.answer (serve h r s.pwm) (some (okWord 0)), host := .dispatching } := by
  cases r with
  | fault =>
    calc dispatch (execIn b) h (fuel + 3) { machine := s, host := .dispatching }
      _ = dispatch (execIn b) h (fuel + 2) { machine := s, host := .inHandler .faultAck } :=
        dispatch_of_move _ nofun (hostMove_of_high h none hr)
      _ = dispatch (execIn b) h (fuel + 1) { machine := _, host := .inHandler .faultApplication } :=
        dispatch_of_move _ nofun (hostMove_faultAck b h none s)
      _ = _ := dispatch_of_move _ nofun (hostMove_faultApplication_none b h _)
  | compareMatch i =>
    have hvalue : ((s.pwm.active[i]).toNat + h.inc[i]) % h.maxd ≤ s.pwm.maxDuty.toNat :=
      (Nat.mod_lt _ hmaxd).le.trans hle
    calc dispatch (execIn b) h (fuel + 4) { machine := s, host := .dispatching }
      _ = dispatch (execIn b) h (fuel + 3) { machine := s, host := .inHandler (.rampRead i) } :=
        dispatch_of_move _ nofun (hostMove_of_high h none hr)
      _ = dispatch (execIn b) h (fuel + 2) { machine := _, host := .inHandler (.rampWrite i _) } :=
        dispatch_of_move _ nofun (hostMove_rampRead b h none s hmaxd i)
      _ = dispatch (execIn b) h (fuel + 1) { machine := _, host := .inHandler (.rampAck i) } :=
        dispatch_of_move _ nofun (hostMove_rampWrite b h none _ hvalue i)
      _ = _ := dispatch_of_move _ nofun (hostMove_rampAck b h none _ i)
  | periodBoundary =>
    calc dispatch (execIn b) h (fuel + 2) { machine := s, host := .dispatching }
      _ = dispatch (execIn b) h (fuel + 1) { machine := s, host := .inHandler .boundaryAck } :=
        dispatch_of_move _ nofun (hostMove_of_high h none hr)
      _ = _ := dispatch_of_move _ nofun (hostMove_boundaryAck b h none s)

/-- The dispatcher serves the lines one by one, each served line bringing it closer to its end. -/
theorem dispatch_serves (hmaxd : 0 < h.maxd) (fuel : Nat) (hle : h.maxd ≤ s.pwm.maxDuty.toNat)
    (hfuel : movesForAll s.pwm < fuel) :
    dispatch (execIn b) h fuel { machine := s, host := .dispatching } =
      some (.next { machine := afterDispatch h s, host := .waiting }) := by
  induction fuel using Nat.strong_induction_on generalizing s with
  | h fuel ih =>
    cases hr : highestRequest s.pwm with
    | none =>
      obtain ⟨fuel, rfl⟩ := Nat.exists_eq_add_one.mpr (Nat.zero_lt_of_lt hfuel)
      rw [dispatch_of_move fuel (by nofun) (hostMove_of_low h hr), dispatch_of_waiting fuel rfl, afterDispatch_of_none h hr]
    | some r =>
      have hmoves := movesForAll_serve h (lineHigh_of_highestRequest hr)
      obtain ⟨rest, rfl⟩ := Nat.exists_eq_add_of_le' (show movesFor r ≤ fuel by omega)
      have hpos : 0 < movesFor r := by cases r <;> exact Nat.succ_pos _
      rw [dispatch_of_high hmaxd hle hr, ih rest (by omega) ((serve_maxDuty h r s.pwm).symm ▸ hle) (by dsimp; omega),
        afterDispatch_serve h hr]

end

/-- A fault that latches while a handler runs forces the pins at once and leaves the handler running (R161). -/
theorem worldMove_event_in_handler {b : Config.Build} {y z : System b.numChannels} {g : HandlerStage b.numChannels}
    {ch : Fin Config.numEventChannels} {rest : List Stimulus} (hhost : y.host = .inHandler g)
    (hs : y.machine.inputs = .event ch :: rest) (hmasked : maskedEvent b.destMask ch.val y.machine.pwm = true)
    (harmed : y.machine.pwm.fstate = .armed) (hmove : worldMove (execIn b) b.destMask y = .next z) :
    z.host = .inHandler g ∧ PinsSafe z.machine.pwm ∧ irqFault z.machine.pwm = true := by
  obtain ⟨hstep, hphase⟩ := worldMove_eq_next hmove
  have hpwm : z.machine.pwm = trigger b.destMask ch.val y.machine.pwm := by
    rw [← Host.Outcome.next.inj ((nextStep_of_inputs_cons hs).symm.trans hstep)]
    rfl
  rw [trigger, if_pos ⟨hmasked, harmed⟩] at hpwm
  rw [hphase, phaseAfter_of_working (by rw [hhost]; nofun), hpwm]
  exact ⟨hhost, pins_of_forced rfl, rfl⟩

/-- Settles O59: the dispatcher's moves are enough for every line, and the moves around a fault are the ones above. -/
theorem dispatcherServesEveryRequest : Obligations.DispatcherServesEveryRequest := by
  refine ⟨fun b h s hmaxd hle => ?_, fun b y z g ch rest hhost hs hmasked harmed hmove => ?_, fun b h app s hfault => ?_,
    fun b h app s => hostMove_faultAck b h app s⟩
  · exact dispatch_serves hmaxd _ hle (Nat.lt_succ_of_le (movesForAll_le s.pwm))
  · exact worldMove_event_in_handler hhost hs hmasked harmed hmove
  · obtain ⟨hpriority, -⟩ := requestPriority _ s.pwm
    exact hostMove_of_high h app (hpriority.mpr hfault)

end Sys2Proof.Machine
end

section
/-! PROOFS. Scripts of accepted commands: the rows of `Accepts` are what the machine does, so a list of commands of which each is
accepted where the one before it left the hardware runs whole (20_memory.md R40, 30_encoding.md R55); and the boot sequence
(70_reset_and_hazards.md R172) is such a list. -/

namespace Sys2Proof.Machine

open Sys2Proof.Claims

section

variable {n : Nat} {dest : BitVec 8} {c c' c'' : Pwm n} {i : Instr} {is js : List Instr} {d : Ticks}

/-! ## The rows of `Accepts`, read from the row to the machine -/

/-- A command that is accepted is well formed: its index names something. -/
theorem Accepts.wf (h : Accepts dest c i c' d) : i.wfFor n = true := by
  cases h with
  | cfgdt p index => exact decide_eq_true (index ▸ p.isLt)
  | wrduty p index => exact decide_eq_true (index ▸ p.isLt)
  | rdduty p index => exact decide_eq_true (index ▸ p.isLt)
  | fire ch index => exact decide_eq_true (index ▸ ch.isLt)
  | _ => rfl

/-- A channel with the number of an `IDX` operand is the one the operand names. -/
theorem exists_eq_mk_of_index {p : Fin n} {idx : Index} (index : p.val = idx.toNat) :
    ∃ h : idx.toNat < n, p = ⟨idx.toNat, h⟩ :=
  ⟨index ▸ p.isLt, Fin.ext index⟩

/-- The converse of `exec_answers` for an accepted command: the row's guard makes the machine do what the row says. -/
theorem Accepts.exec_eq {s : State} {c' : Pwm Config.numChannels} (h : Accepts Config.destMask s.pwm i c' d) :
    exec i s = .next (accepted d c' s) := by
  cases h with
  | cfgcar guard => exact exec_cfgcar_of_accepted (Bool.eq_false_iff.mp guard) _ _
  | cfgmax guard => exact exec_cfgmax_of_accepted (Bool.eq_false_iff.mp guard)
  | cfgdt p index guard =>
    obtain ⟨h, rfl⟩ := exists_eq_mk_of_index index
    rw [exec_cfgdt_of_present h, if_neg (Bool.eq_false_iff.mp guard)]
  | cfgflt guard => rw [exec_cfgflt, if_neg (Bool.eq_false_iff.mp guard)]
  | start guard => exact exec_start_of_not_cfgerr (Bool.eq_false_iff.mp guard)
  | stop => exact exec_stop s
  | wrduty p index guard =>
    obtain ⟨h, rfl⟩ := exists_eq_mk_of_index index
    rw [exec_wrduty_of_present h, if_neg guard]
  | rdduty p index =>
    obtain ⟨h, rfl⟩ := exists_eq_mk_of_index index
    exact exec_rdduty_of_present h _ s
  | fire ch index =>
    rw [index]
    exact exec_fire_of_present (index ▸ ch.isLt) s
  | clrflt => exact exec_clrflt s
  | status => exact exec_status s
  | rdflags => exact exec_rdflags s
  | ack => exact exec_ack _ s

/-! ## Scripts -/

/-- Every command of `is` is accepted in turn and answers 0, from the hardware state `c` on, and the last one leaves `c'`. -/
inductive AcceptsScript (dest : BitVec 8) : Pwm n → List Instr → Pwm n → Prop where
  | nil (c : Pwm n) : AcceptsScript dest c [] c
  | cons {c c' c'' : Pwm n} {i : Instr} {is : List Instr} (head : Accepts dest c i c' 0)
      (rest : AcceptsScript dest c' is c'') : AcceptsScript dest c (i :: is) c''

theorem AcceptsScript.append (h : AcceptsScript dest c is c') (h' : AcceptsScript dest c' js c'') :
    AcceptsScript dest c (is ++ js) c'' := by
  induction h with
  | nil => exact h'
  | cons head _ ih => exact .cons head (ih h')

/-- The host presenting a list of commands, as stimuli. -/
def scriptInputs (is : List Instr) : List Stimulus := is.map fun i => .cmd (encode i)

end

theorem run_succ_of_step {k : Nat} {s t : State} (h : step s = .next t) :
    Host.Core.run core (k + 1) s = Host.Core.run core k t := by
  have hcore : core.step s = .next t := h
  simp only [Host.Core.run, hcore]

/-- A script of accepted commands runs whole, one command a step, and the last response is 0. -/
theorem AcceptsScript.run {c c' : Pwm Config.numChannels} {is : List Instr} (h : AcceptsScript Config.destMask c is c')
    (r : Option Word) :
    Host.Core.run core is.length { pwm := c, inputs := scriptInputs is, response := r } =
      .next { pwm := c', inputs := [], response := if is = [] then r else some 0x00000000#32 } := by
  induction h generalizing r with
  | nil => rfl
  | @cons c c₁ _ i is head _ ih =>
    have hexec := Accepts.exec_eq (s := { pwm := c, inputs := scriptInputs is, response := r }) head
    have hstep :
        step { pwm := c, inputs := scriptInputs (i :: is), response := r } =
          .next { pwm := c₁, inputs := scriptInputs is, response := some 0x00000000#32 } :=
      (stepRunsDecodedCommand _ _ _ i rfl (decodeOfEncode _ i head.wf)).trans hexec
    rw [List.length_cons, run_succ_of_step hstep, ih, ite_self, if_neg (List.cons_ne_nil i is)]

/-! ## The boot sequence (R172) -/

/-- Four writes, one per channel, write the whole vector. -/
theorem set_every_channel {α : Type} (v w : Vector α Config.numChannels) :
    (((v.set 0 w[0]).set 1 w[1]).set 2 w[2]).set 3 w[3] = w := by
  ext j hj
  interval_cases j <;> simp

/-- From reset, `CFGCAR` is accepted if neither operand is 0: the maximum duty and the dead times are 0 (R170). -/
theorem cfgcar_accepted_at_reset {n : Nat} {period : Ticks} {div : Divisor} (hperiod : 0 < period.toNat) (hdiv : div ≠ 0) :
    cfgcarRejected period div (Pwm.reset n) = false := by
  rw [← Bool.not_eq_true, cfgcarRejected_iff]
  push Not
  refine ⟨by simp [Pwm.reset], ?_, hdiv, hperiod, fun p => ?_⟩
  · rintro rfl
    exact absurd hperiod (by decide)
  · simpa [Pwm.reset] using hperiod

/-- From reset, `CFGCAR` writes the configuration and the start value; `raw` is compared with duty values of 0 and stays 0. -/
theorem loadCarrier_reset {n : Nat} (period : Ticks) (dir : Direction) (mode : SlopeMode) (div : Divisor) :
    loadCarrier period dir mode div (Pwm.reset n) =
      { Pwm.reset n with
        period := period, direction := dir, mode := mode, div := div, cnt := if dir = .down then period else 0 } := by
  have hraw : (Vector.ofFn fun i : Fin n => decide (startValue dir period < (Pwm.reset n).active[i])) =
      Vector.replicate n false := by
    ext j hj
    simp [Pwm.reset]
  rw [loadCarrier, hraw, startValue_eq_ite]
  rfl

section

variable {dest : BitVec 8} {c : Pwm Config.numChannels}

/-- The four `CFGDT` of the boot sequence, which do not look at each other's writes. -/
theorem acceptsScript_cfgdt {low high : Vector DeadTicks Config.numChannels} (hstopped : c.enabled = false)
    (hsum : ∀ p : Fin Config.numChannels, (low[p]).toNat + (high[p]).toNat < c.period.toNat) :
    AcceptsScript dest c
      [.cfgdt 0 low[0] high[0], .cfgdt 1 low[1] high[1], .cfgdt 2 low[2] high[2], .cfgdt 3 low[3] high[3]]
      { c with dtLow := low, dtHigh := high } := by
  have guard (p : Fin Config.numChannels) : cfgdtRejected low[p] high[p] c = false := by
    rw [← Bool.not_eq_true, cfgdtRejected_iff, hstopped]
    push Not
    exact ⟨nofun, hsum p⟩
  have hwrites :
      writeDeadTimes 3 low[3] high[3] (writeDeadTimes 2 low[2] high[2] (writeDeadTimes 1 low[1] high[1]
        (writeDeadTimes 0 low[0] high[0] c))) = { c with dtLow := low, dtHigh := high } :=
    congrArg₂ (fun l h => { c with dtLow := l, dtHigh := h }) (set_every_channel c.dtLow low) (set_every_channel c.dtHigh high)
  rw [← hwrites]
  exact .cons (.cfgdt 0 rfl (guard 0)) (.cons (.cfgdt 1 rfl (guard 1)) (.cons (.cfgdt 2 rfl (guard 2))
    (.cons (.cfgdt 3 rfl (guard 3)) (.nil _))))

/-- The four `WRDUTY` of the boot sequence. -/
theorem acceptsScript_wrduty {duty : Vector Ticks Config.numChannels}
    (hduty : ∀ p : Fin Config.numChannels, (duty[p]).toNat ≤ c.maxDuty.toNat) :
    AcceptsScript dest c [.wrduty 0 duty[0], .wrduty 1 duty[1], .wrduty 2 duty[2], .wrduty 3 duty[3]]
      { c with pending := duty } := by
  have guard (p : Fin Config.numChannels) : ¬c.maxDuty < duty[p] := BitVec.not_lt.mpr (BitVec.le_def.mpr (hduty p))
  have hwrites :
      writePending 3 duty[3] (writePending 2 duty[2] (writePending 1 duty[1] (writePending 0 duty[0] c))) =
        { c with pending := duty } :=
    congrArg (fun v => { c with pending := v }) (set_every_channel c.pending duty)
  rw [← hwrites]
  exact .cons (.wrduty 0 rfl (guard 0)) (.cons (.wrduty 1 rfl (guard 1)) (.cons (.wrduty 2 rfl (guard 2))
    (.cons (.wrduty 3 rfl (guard 3)) (.nil _))))

end

/-- Settles O57: the carrier's two commands, the four dead times, the Fault Monitor, the four duty values and `START`, each accepted
where the ones before it left the hardware. -/
theorem bootSequenceStarts : Obligations.BootSequenceStarts := by
  intro period dir mode div maxd low high restart safe mask duty hdiv hmax hsum hduty
  have hcar : Accepts Config.destMask (Pwm.reset Config.numChannels) (.cfgcar period dir mode div) _ 0 :=
    .cfgcar (cfgcar_accepted_at_reset (Nat.zero_lt_of_lt hmax) hdiv)
  rw [loadCarrier_reset] at hcar
  have hmaxGuard : cfgmaxRejected maxd
      { Pwm.reset Config.numChannels with
        period := period, direction := dir, mode := mode, div := div, cnt := if dir = .down then period else 0 } = false := by
    rw [← Bool.not_eq_true, cfgmaxRejected_iff]
    push Not
    exact ⟨nofun, hmax, fun i => by simp [Pwm.reset]⟩
  have hscript :=
    AcceptsScript.cons hcar (.cons (.cfgmax hmaxGuard) ((acceptsScript_cfgdt (low := low) (high := high) rfl hsum).append
      (.cons (.cfgflt (restart := restart) (safe := safe) (mask := mask) rfl)
        ((acceptsScript_wrduty (duty := duty) hduty).append (.cons (.start rfl) (.nil _))))))
  exact hscript.run none

end Sys2Proof.Machine
end

section
/-! PROOFS. `RESET` (70_reset_and_hazards.md R170, R171): what it writes, what no other step does in its place, and what the reset
state shows. -/

namespace Sys2Proof.Machine

open Sys2Proof.Claims

/-! ## The only ways out of an error and of a latched fault (R170) -/

theorem clk_cfgerr {n : Nat} (c : Pwm n) : (clk c).cfgerr = c.cfgerr := by
  rcases clk_cases c with ⟨-, hc⟩ | ⟨-, -, hc⟩ | ⟨-, -, -, hc⟩ <;> rw [hc]
  rw [tick_writes]

/-- No step but `RESET` clears `cfgerr`: an accepted command leaves it alone and a rejected one sets it. -/
theorem HardwareStep.cfgerr_stays_set {n : Nat} {dest : BitVec 8} {c c' : Pwm n} {x : Option Stimulus} {r : Option Word}
    (hs : HardwareStep dest c x c' r) (hreset : x ≠ some .reset) (h : c.cfgerr = true) : c'.cfgerr = true := by
  cases hs with
  | idle => exact h
  | command _ answer =>
    cases answer with
    | accepted ha => exact ha.cfgerr_unchanged.trans h
    | rejected => rfl
    | illegal => exact h
  | noCommand => exact h
  | clk => exact (clk_cfgerr c).trans h
  | event ch => rwa [trigger_writes]
  | reset => exact absurd rfl hreset

/-- Under latched restart no row of the table but those of `CLRFLT` and `RESET` leaves Faulted, whatever the override is (R121). -/
theorem nextFault_faulted_of_latched {c : Pwm Config.numChannels} (hfaulted : c.fstate = .faulted)
    (hlatched : c.restart = .latched) {x : Stimulus} (hreset : x ≠ .reset) (hclear : x ≠ .cmd (encode .clrflt)) :
    (nextFault x c).1 = .faulted := by
  cases x with
  | cmd w =>
    have hword : w ≠ 0xA0000000#32 := fun hw => hclear (congrArg Stimulus.cmd (hw.trans encode_clrflt.symm))
    simp [nextFault, hword, hfaulted]
  | clk => simp [nextFault, hfaulted, hlatched]
  | event ch => simp [nextFault, hfaulted]
  | reset => exact absurd rfl hreset

/-- With no stimulus waiting the hardware does not change (log entry 2). -/
theorem step_pwm_of_idle {s t : State} (hs : s.inputs = []) (hstep : step s = .next t) : t.pwm = s.pwm := by
  have hhw := step_hardware hstep
  rw [hs, List.head?_nil] at hhw
  generalize t.pwm = c', t.response = r at hhw ⊢
  cases hhw
  rfl

theorem step_faulted_of_latched {s t : State} (hstep : step s = .next t) (hreset : ¬resetNext s) (hclear : ¬clearNext s)
    (hfaulted : s.pwm.fstate = .faulted) (hlatched : s.pwm.restart = .latched) : t.pwm.fstate = .faulted := by
  cases hs : s.inputs with
  | nil => rwa [step_pwm_of_idle hs hstep]
  | cons x rest =>
    calc t.pwm.fstate
      _ = (nextFault x s.pwm).1 := congrArg Prod.fst (step_fault hs hstep)
      _ = .faulted :=
        nextFault_faulted_of_latched hfaulted hlatched (fun hx => hreset ⟨rest, hx ▸ hs⟩) fun hx => hclear ⟨rest, hx ▸ hs⟩

/-- Settles O10: `RESET` replaces the hardware by its reset values, and the two "only" clauses are kept by every other step. -/
theorem resetWritesEveryField : Obligations.ResetWritesEveryField := by
  refine ⟨fun s rest hs => ?_, fun s t hstep hreset => ⟨fun hcfgerr => ?_, fun hclear hfaulted hlatched => ?_⟩⟩
  · exact ⟨(s.withInputs rest).answer (Pwm.reset _) none, nextStep_of_inputs_cons hs, rfl⟩
  · exact (step_hardware hstep).cfgerr_stays_set (fun hx => hreset (List.head?_eq_some_iff.mp hx)) hcfgerr
  · exact step_faulted_of_latched hstep hreset hclear hfaulted hlatched

/-! ## The reset state (R171) -/

theorem pins_low_of_stopped {n : Nat} {c : Pwm n} (hstopped : c.enabled = false) (hforce : c.force = false) (p : Fin n) :
    pinH c p = .low ∧ pinL c p = .low := by
  obtain ⟨hhigh, hlow⟩ := outputs_inactive_of_stopped hstopped p
  simp [pinH, pinL, hforce, hhigh, hlow, levelOf]

theorem exec_rdduty_indexOf (i : Fin Config.numChannels) (sel : DutySel) (s : State) :
    exec (.rdduty (indexOf i) sel) s = .next (accepted (readDuty sel i s.pwm) s.pwm s) := by
  simp only [exec, execRdduty, channelOf_indexOf (by decide) i, respond_eq_accepted]

theorem readDuty_reset {n : Nat} (sel : DutySel) (i : Fin n) : readDuty sel i (Pwm.reset n) = 0 := by
  cases sel <;> simp [readDuty, Pwm.reset]

theorem irqMatch_reset {n : Nat} (p : Fin n) : irqMatch (Pwm.reset n) p = false := by
  simp [irqMatch, Pwm.reset]

theorem flagWord_reset : flagWord (Pwm.reset Config.numChannels) = 0 := by decide

/-- Settles O11: the carrier is stopped and nothing is forced, no flag is set, and every register the commands read is 0. -/
theorem resetStateOutputs : Obligations.ResetStateOutputs := by
  refine ⟨fun p => ?_, rfl, rfl, exec_status _, ?_, fun i sel => ?_⟩
  · obtain ⟨hhigh, hlow⟩ := pins_low_of_stopped (c := State.reset.pwm) rfl rfl p
    exact ⟨hhigh, hlow, irqMatch_reset p⟩
  · rw [exec_rdflags, reset_pwm, flagWord_reset]
  · rw [exec_rdduty_indexOf, reset_pwm, readDuty_reset]

end Sys2Proof.Machine
end

section
/-! PROOFS. Totality (70_reset_and_hazards.md R183): every step of every build ends in a next state, and what it leaves in the model's
own two fields (log entries 1, 2 and 3). -/

namespace Sys2Proof.Machine

variable {n : Nat}

/-- Every command of every build ends in a next state and leaves the waiting stimuli alone. -/
theorem execIn_completes (b : Config.Build) (i : Instr) (s : State b.numChannels) :
    ∃ t, execIn b i s = .next t ∧ t.inputs = s.inputs := by
  obtain ⟨t, -, hexec, -, -⟩ := execIn_answersIn b i s
  exact ⟨t, hexec, execIn_inputs hexec⟩

/-- If every command completes, so does every step, and it takes one stimulus off the list (R7). -/
theorem nextStep_completes {run : Executor n} (hrun : ∀ i s, ∃ t, run i s = .next t ∧ t.inputs = s.inputs) (dest : BitVec 8)
    (s : State n) : ∃ t, nextStep run dest s = .next t ∧ t.inputs = s.inputs.tail := by
  cases hs : s.inputs with
  | nil => exact ⟨s.answer s.pwm none, by simp only [nextStep, hs, idleStep], hs⟩
  | cons x rest =>
    rw [nextStep_of_inputs_cons hs]
    cases x with
    | cmd w =>
      cases hd : decodeFor n w with
      | ok i =>
        obtain ⟨t, ht, hinputs⟩ := hrun i (s.withInputs rest)
        exact ⟨t, (commandStep_of_decodeFor_ok hd _).trans ht, hinputs⟩
      | error e => exact ⟨_, commandStep_of_decodeFor_error hd _, rfl⟩
    | clk => exact ⟨_, rfl, rfl⟩
    | event ch => exact ⟨_, rfl, rfl⟩
    | reset => exact ⟨_, rfl, rfl⟩

theorem stepIn_completes (b : Config.Build) (s : State b.numChannels) :
    ∃ t, stepIn b s = .next t ∧ t.inputs = s.inputs.tail :=
  nextStep_completes (execIn_completes b) b.destMask s

/-- A step has a response exactly when it took a command word (R53, log entry 3). -/
theorem HardwareStep.response_eq_none_iff {dest : BitVec 8} {c c' : Pwm n} {x : Option Stimulus} {r : Option Word}
    (hs : HardwareStep dest c x c' r) : r = none ↔ ∀ w, x ≠ some (.cmd w) := by
  cases hs with
  | command => exact iff_of_false nofun fun h => h _ rfl
  | noCommand => exact iff_of_false nofun fun h => h _ rfl
  | idle | clk | event | reset => exact iff_of_true rfl nofun

/-- Settles O12: the step of every build completes, the machine's among them, and the hardware step says the rest. -/
theorem everyStepCompletes : Obligations.EveryStepCompletes := by
  refine ⟨fun s => ?_, stepIn_completes, fun i s => by rw [exec_eq_execIn], fun s => by rw [step_eq_stepIn]⟩
  obtain ⟨t, hstep, hinputs⟩ := stepIn_completes Config.defaultBuild s
  rw [← step_eq_stepIn] at hstep
  refine ⟨t, hstep, hinputs, ?_, fun hs => step_pwm_of_idle hs hstep⟩
  rw [(step_hardware hstep).response_eq_none_iff]
  simp only [ne_eq, List.head?_eq_some_iff, not_exists]

end Sys2Proof.Machine
end
